-- ==== Sys2Proof/Word.lean ====
section
/-! DEFINITION. The fixed widths: of a byte, of `pc` and of the fields of an operation word (spec/30_encoding.md R81 to
R83). `+` and `-` on them are modulo 2^N and the comparisons unsigned, as spec/00_scope.md R11 says. The fields whose
width is a parameter of R8 (TICK_WIDTH, TIME_WIDTH, NAME_WIDTH, PHASE_TIMER_WIDTH) are numbers taken modulo 2^width
(`wrapTo`, Machine/Operands.lean; log entry 10). -/

namespace Sys2Proof

/-- Eight bits: an opcode, an operand byte, `task_count`, `pstate`, `fault`. -/
abbrev Byte := BitVec 8

/-- Sixteen bits: `pc`, and the operand fields DLY, PER and NAME. -/
abbrev Half := BitVec 16

/-- Thirty-two bits: the operand field MS. -/
abbrev Tick := BitVec 32

/-- An operation word: always exactly 64 bits (R81). -/
abbrev OpWord := BitVec 64

end Sys2Proof
end

