-- ==== Sys2Proof/Syntax.lean ====
section
/-! DEFINITION. The operations of spec/opcode_table.json (spec/30_encoding.md R85), one constructor per row, each
operand of the exact width of its field (R83); and the listing syntax of R89 with the pseudo-operations of
R90, whose operands are plain numbers that the assembler checks. -/

namespace Sys2Proof

/-- An operation: one row of the opcode table. -/
inductive Instr where
  /-- SCHED_INIT, OP 0x01 (R121). -/
  | schedInit
  /-- SCHED_ADD_TASK, OP 0x02 (R122). -/
  | schedAddTask (cb : Byte) (dly per name : Half)
  /-- SCHED_DISPATCH, OP 0x03 (R130). -/
  | schedDispatch
  /-- SCHED_DISPATCH_SLOT, OP 0x04 (R131). -/
  | schedDispatchSlot (slot : Byte)
  /-- SCHED_TICK, OP 0x05 (R126). -/
  | schedTick
  /-- TIMER_FIRE, OP 0x08 (R101). -/
  | timerFire
  /-- TICK_ISR, OP 0x09 (R102). -/
  | tickIsr
  /-- PERIPH_INIT, OP 0x10 (R210). -/
  | periphInit
  /-- IRQ_DISABLE, OP 0x11 (R211). -/
  | irqDisable
  /-- IRQ_ENABLE, OP 0x12 (R212). -/
  | irqEnable
  /-- WAIT_IRQ, OP 0x13 (R215). -/
  | waitIrq
  /-- MAIN_LOOP, OP 0x14 (R213). -/
  | mainLoop
  /-- FATAL_HALT, OP 0x15 (R216). -/
  | fatalHalt
  /-- PSEQ_STEP, OP 0x18 (R150). -/
  | pseqStep
  /-- READ_BUTTON, OP 0x20 (R191). -/
  | readButton
  /-- SET_RELAY, OP 0x21 (R194). -/
  | setRelay (id lvl : Byte)
  /-- SET_LED, OP 0x22 (R195). -/
  | setLed (lvl : Byte)
  /-- GET_TICKS, OP 0x23 (R103). -/
  | getTicks
  /-- DELAY_MS, OP 0x24 (R196). -/
  | delayMs (ms : Tick)
deriving DecidableEq, Repr

/-- A listing line of R89 or R90. An operand is the number that was written; whether it fits its field is
`Listing.wf` (WellFormed.lean). -/
inductive Listing where
  /-- An operation of format Z, written by its mnemonic alone. -/
  | plain (i : Instr)
  /-- `SCHED_ADD_TASK cb=…, delay=…, period=…, name=…`. -/
  | addTask (cb dly per name : Nat)
  /-- `SCHED_DISPATCH_SLOT <slot>`. -/
  | dispatchSlot (slot : Nat)
  /-- `SET_RELAY <id>, <level>`. -/
  | setRelay (id lvl : Nat)
  /-- `SET_LED <level>`. -/
  | setLed (lvl : Nat)
  /-- `DELAY_MS <ticks>`. -/
  | delayMs (ms : Nat)
  /-- The pseudo-operation ADD_SEQ_TASK. -/
  | addSeqTask
  /-- The pseudo-operation STARTUP. -/
  | startup
  /-- The pseudo-operation ALL_OFF. -/
  | allOff
deriving DecidableEq, Repr

end Sys2Proof
end

