-- ==== Sys2Proof/Config.lean ====
section
/-! DEFINITION. The implementation parameters of spec/00_scope.md R8, the agents of R3, and the free values:
what the spec leaves OPEN or draws freely. Every free value is an `opaque` constant without a body, so no
proof can use its value. -/

namespace Sys2Proof

/-- The three agents of R3. -/
inductive Agent where
  /-- The task context. -/
  | task
  /-- The interrupt context: the tick ISR. -/
  | interrupt
  /-- The environment: the timer's fires. -/
  | environment
deriving DecidableEq, Repr, Inhabited

/-- One step of an EXTERNAL callback (spec/41_scheduler.md R138): the only operations it issues are GET_TICKS
and DELAY_MS, and every other step of it touches no field of the block. -/
inductive ExtMove where
  /-- A step that issues no operation of the block. -/
  | work
  /-- GET_TICKS. -/
  | getTicks
  /-- DELAY_MS with some duration. -/
  | delay (ms : Tick)
  /-- The callback returns to SCHED_DISPATCH_SLOT. -/
  | ret
deriving DecidableEq, Repr, Inhabited

namespace Config

/-- The parameters of R8. A model takes every one as an argument: they stand in State as configuration that
no step writes (log entry 1). -/
structure Params where
  /-- TICK_HZ: read by no rule (R100). -/
  tickHz : Nat
  /-- TICK_WIDTH, the width of the tick counter: it wraps modulo 2^TICK_WIDTH (I-1). -/
  tickWidth : Nat
  /-- TIME_WIDTH, the width of initial_delay, period and countdown. -/
  timeWidth : Nat
  /-- NAME_WIDTH, the width of a name handle. -/
  nameWidth : Nat
  /-- MAX_TASKS, the registry's capacity. -/
  maxTasks : Byte
  /-- NUM_CALLBACKS, the entries of the callback table. -/
  numCallbacks : Nat
  /-- SEQ_PERIOD, the period ADD_SEQ_TASK registers (R90). -/
  seqPeriod : Nat
  /-- SEQ_INITIAL_DELAY, the initial delay ADD_SEQ_TASK registers (R90). -/
  seqInitialDelay : Nat
  /-- N1, the LIVE_VIA_RESISTOR phase in invocations. -/
  n1 : Nat
  /-- N2, the SPEAKER_PRECHARGE phase in invocations. -/
  n2 : Nat
  /-- N3, the SHUTDOWN_BLINK phase in invocations. -/
  n3 : Nat
  /-- PHASE_TIMER_WIDTH, the width of the phase timer. -/
  phaseTimerWidth : Nat
  /-- SETTLE_MS, the settle delay of SPEAKER_PRECHARGE in ticks. R8 gives it no range: a whole number of any size here, not
  reduced to the 32 bits of DELAY_MS's operand (log entry 32). -/
  settleMs : Nat
  /-- BUTTON_BIT: read by no rule (D28). -/
  buttonBit : Nat
  /-- OUTPUT_POLARITY, the pin level that energizes an output: read by no rule (D9). -/
  outputPolarity : Bool
deriving DecidableEq, Repr

/-- MAX_TASKS is OPEN in 1..255 (D5): one less than it. Free value, log entry 9. -/
opaque maxTasksLessOne : Fin 255

/-- NUM_CALLBACKS is OPEN in 1..256 (D22): one less than it. Free value, log entry 9. -/
opaque numCallbacksLessOne : Fin 256

/-- N2 is OPEN in 1..65535 (D6): one less than it. Free value, log entry 9. -/
opaque n2LessOne : Fin 65535

/-- N3 is OPEN in 1..65535 (D6): one less than it. Free value, log entry 9. -/
opaque n3LessOne : Fin 65535

/-- BUTTON_BIT is OPEN (D28). Free value, log entry 9. -/
opaque buttonBit : Nat

/-- OUTPUT_POLARITY is OPEN (D9). Free value, log entry 9. -/
opaque outputPolarity : Bool

/-- The parameters of the machine after reset: the reference values of R8, and the OPEN ones free. -/
def machine : Params where
  tickHz := 1000
  tickWidth := 32
  timeWidth := 16
  nameWidth := 16
  maxTasks := BitVec.ofNat 8 (maxTasksLessOne.val + 1)
  numCallbacks := numCallbacksLessOne.val + 1
  seqPeriod := 100
  seqInitialDelay := 100
  n1 := 10
  n2 := n2LessOne.val + 1
  n3 := n3LessOne.val + 1
  phaseTimerWidth := 16
  settleMs := 5
  buttonBit := buttonBit
  outputPolarity := outputPolarity

/-- Which agent takes the step after the `n`-th draw: the free choice of spec/60_exceptions.md R236. Free
value, log entry 2. -/
opaque nextTurn : Nat → Agent

/-- The level of the button line after the `n`-th draw (spec/43_io_drivers.md R192: "a free draw at each call,
under no law"). Free value, log entry 3. -/
opaque buttonLevel : Nat → Bool

/-- What an EXTERNAL callback does next after the `n`-th draw (R138, I-5). Free value, log entry 4. -/
opaque externalMove : Nat → ExtMove

end Config

end Sys2Proof
end

