-- ==== Sys2Proof/WellFormed.lean ====
section
/-! DEFINITION. What may be run or assembled: a boot program (spec/44_control.md R217), a configuration
(spec/00_scope.md R8, R9), a listing line (spec/30_encoding.md R89). Every `Instr` is well-formed as it stands:
its operands have the widths of their fields, and an operand out of its range (a relay id above 3, a level
above 1) decodes and faults when it executes (R83). -/

namespace Sys2Proof

/-- The word of MAIN_LOOP (R85, R91). -/
def mainLoopWord : OpWord := 0x1400000000000000#64

/-- The word of FATAL_HALT (R85). -/
def fatalHaltWord : OpWord := 0x1500000000000000#64

/-- Whether a boot program's last word is MAIN_LOOP or FATAL_HALT (R217 (2)). -/
def endsProperly (p : List OpWord) : Bool :=
  p.getLast? == some mainLoopWord || p.getLast? == some fatalHaltWord

/-- R217: 1 to 65535 words, the last of them MAIN_LOOP or FATAL_HALT. -/
def programWf (p : List OpWord) : Bool :=
  decide (1 ≤ p.length) && decide (p.length ≤ 65535) && endsProperly p

/-- R8, R9: MAX_TASKS in 1..255 (its upper bound is its type's), NUM_CALLBACKS in 1..256, N1, N2, N3 in
1..2^PHASE_TIMER_WIDTH - 1, SEQ_PERIOD in 1..2^TIME_WIDTH - 1. The tick counter has 32 bits or more (R31), and the
16-bit operands DLY, PER and NAME fit the fields they are written to (log entry 10). A step does not test this: every
rule has a defined outcome outside it too (a phase constant of 0 acts like 1, R158; log entry 30). -/
def Config.Params.wf (p : Config.Params) : Bool :=
  decide (32 ≤ p.tickWidth) && decide (16 ≤ p.timeWidth) && decide (16 ≤ p.nameWidth) &&
    p.maxTasks != 0 && decide (1 ≤ p.numCallbacks) && decide (p.numCallbacks ≤ 256) &&
    p.n1 != 0 && p.n2 != 0 && p.n3 != 0 && decide (p.n1 < 2 ^ p.phaseTimerWidth) &&
    decide (p.n2 < 2 ^ p.phaseTimerWidth) && decide (p.n3 < 2 ^ p.phaseTimerWidth) &&
    p.seqPeriod != 0 && decide (p.seqPeriod < 2 ^ p.timeWidth) && decide (p.seqInitialDelay < 2 ^ p.timeWidth)

/-- Whether an operation has format Z (R82): a mnemonic with no operand. -/
def Instr.isPlain : Instr → Bool
  | .schedAddTask _ _ _ _ => false
  | .schedDispatchSlot _ => false
  | .setRelay _ _ => false
  | .setLed _ => false
  | .delayMs _ => false
  | .schedInit => true
  | .schedDispatch => true
  | .schedTick => true
  | .timerFire => true
  | .tickIsr => true
  | .periphInit => true
  | .irqDisable => true
  | .irqEnable => true
  | .waitIrq => true
  | .mainLoop => true
  | .fatalHalt => true
  | .pseqStep => true
  | .readButton => true
  | .getTicks => true

/-- Whether the operands that ADD_SEQ_TASK takes from the parameters fit the 16-bit fields of its word (R89, R90). -/
def Config.Params.seqOperandsFit (p : Config.Params) : Bool :=
  decide (p.seqInitialDelay < 2 ^ 16) && decide (p.seqPeriod < 2 ^ 16)

/-- R89: "An operand that does not fit its field is an assembler error". The widths are those of R82. -/
def Listing.wf (p : Config.Params) : Listing → Bool
  | .plain i => i.isPlain
  | .addTask cb dly per name =>
    decide (cb < 2 ^ 8) && decide (dly < 2 ^ 16) && decide (per < 2 ^ 16) && decide (name < 2 ^ 16)
  | .dispatchSlot slot => decide (slot < 2 ^ 8)
  | .setRelay id lvl => decide (id < 2 ^ 8) && decide (lvl < 2 ^ 8)
  | .setLed lvl => decide (lvl < 2 ^ 8)
  | .delayMs ms => decide (ms < 2 ^ 32)
  | .addSeqTask => p.seqOperandsFit
  | .startup => p.seqOperandsFit
  | .allOff => true

end Sys2Proof
end

