-- ==== Sys2Proof/Decode.lean ====
section
/-! DEFINITION. Decoding and encoding of operation words (spec/30_encoding.md R81 to R88): one 64-bit word, OP in
bits 63:56, six formats, reserved bits zero. Decoding is total: a word that is not a row's is `none`, and
executing it raises ILLEGAL_OP (R86). The byte image is most significant byte first (spec/20_memory.md R61).
The assembler's expansion of a listing line (R89, R90) stands here too. -/

namespace Sys2Proof

/-- `w[lo+len-1:lo]` (R10). -/
def bits (w : OpWord) (lo len : Nat) : BitVec len := w.extractLsb' lo len

/-- `OP = w[63:56]` (R82). -/
def opcode (w : OpWord) : Byte := bits w 56 8

/-- Format Z: bits 55:0 reserved. -/
def formatZ (w : OpWord) (i : Instr) : Option Instr :=
  if bits w 0 56 = 0 then some i else none

/-- Format T: CB 55:48, DLY 47:32, PER 31:16, NAME 15:0; no reserved bit. -/
def formatT (w : OpWord) (f : Byte → Half → Half → Half → Instr) : Option Instr :=
  some (f (bits w 48 8) (bits w 32 16) (bits w 16 16) (bits w 0 16))

/-- Format S: SLOT 55:48, bits 47:0 reserved. -/
def formatS (w : OpWord) (f : Byte → Instr) : Option Instr :=
  if bits w 0 48 = 0 then some (f (bits w 48 8)) else none

/-- Format R: ID 55:48, LVL 47:40, bits 39:0 reserved. -/
def formatR (w : OpWord) (f : Byte → Byte → Instr) : Option Instr :=
  if bits w 0 40 = 0 then some (f (bits w 48 8) (bits w 40 8)) else none

/-- Format L: LVL 55:48, bits 47:0 reserved. -/
def formatL (w : OpWord) (f : Byte → Instr) : Option Instr :=
  if bits w 0 48 = 0 then some (f (bits w 48 8)) else none

/-- Format D: bits 55:32 reserved, MS 31:0. -/
def formatD (w : OpWord) (f : Tick → Instr) : Option Instr :=
  if bits w 32 24 = 0 then some (f (bits w 0 32)) else none

/-- The opcode map of R85. Every OP outside it is illegal (R86, R87). -/
def decode (w : OpWord) : Option Instr :=
  match (opcode w).toNat with
  | 0x01 => formatZ w .schedInit
  | 0x02 => formatT w .schedAddTask
  | 0x03 => formatZ w .schedDispatch
  | 0x04 => formatS w .schedDispatchSlot
  | 0x05 => formatZ w .schedTick
  | 0x08 => formatZ w .timerFire
  | 0x09 => formatZ w .tickIsr
  | 0x10 => formatZ w .periphInit
  | 0x11 => formatZ w .irqDisable
  | 0x12 => formatZ w .irqEnable
  | 0x13 => formatZ w .waitIrq
  | 0x14 => formatZ w .mainLoop
  | 0x15 => formatZ w .fatalHalt
  | 0x18 => formatZ w .pseqStep
  | 0x20 => formatZ w .readButton
  | 0x21 => formatR w .setRelay
  | 0x22 => formatL w .setLed
  | 0x23 => formatZ w .getTicks
  | 0x24 => formatD w .delayMs
  | _ => none

/-- The word of format Z: OP and zeros. -/
def wordZ (op : Byte) : OpWord := op ++ 0#56

/-- The word of formats S and L: OP, one operand byte, zeros. -/
def wordS (op a : Byte) : OpWord := op ++ a ++ 0#48

/-- The one word of an operation (R82, R83, R85). -/
def encode : Instr → OpWord
  | .schedInit => wordZ 0x01
  | .schedAddTask cb dly per name => 0x02#8 ++ cb ++ dly ++ per ++ name
  | .schedDispatch => wordZ 0x03
  | .schedDispatchSlot slot => wordS 0x04 slot
  | .schedTick => wordZ 0x05
  | .timerFire => wordZ 0x08
  | .tickIsr => wordZ 0x09
  | .periphInit => wordZ 0x10
  | .irqDisable => wordZ 0x11
  | .irqEnable => wordZ 0x12
  | .waitIrq => wordZ 0x13
  | .mainLoop => wordZ 0x14
  | .fatalHalt => wordZ 0x15
  | .pseqStep => wordZ 0x18
  | .readButton => wordZ 0x20
  | .setRelay id lvl => 0x21#8 ++ id ++ lvl ++ 0#40
  | .setLed lvl => wordS 0x22 lvl
  | .getTicks => wordZ 0x23
  | .delayMs ms => 0x24#8 ++ 0#24 ++ ms

/-- R61: the eight bytes of a word, most significant first. -/
def wordBytes (w : OpWord) : List Byte :=
  [bits w 56 8, bits w 48 8, bits w 40 8, bits w 32 8, bits w 24 8, bits w 16 8, bits w 8 8, bits w 0 8]

/-- The word whose image the eight bytes are, most significant first (R61); `none` for another length. -/
def wordOfBytes : List Byte → Option OpWord
  | [b7, b6, b5, b4, b3, b2, b1, b0] => some (b7 ++ b6 ++ b5 ++ b4 ++ b3 ++ b2 ++ b1 ++ b0)
  | _ => none

/-- Decode a word from its byte image. -/
def decodeBytes (bs : List Byte) : Option Instr := (wordOfBytes bs).bind decode

/-- The word that the low `nbits` bits of `w` make, every bit above them 0. -/
def tableWord (nbits w : Nat) : OpWord := BitVec.ofNat 64 (w % 2 ^ nbits)

/-- What the decoder reads from an instruction whose bits are `w`, numbered as spec/opcode_table.json numbers
them (bit 0 the least significant of the one 64-bit word), stored as bytes (R61). -/
def decodeTableWord (nbits w : Nat) : Option Instr := decodeBytes (wordBytes (tableWord nbits w))

/-- The operations a well-formed listing line stands for (R89, R90). -/
def expandListing (p : Config.Params) : Listing → List Instr
  | .plain i => [i]
  | .addTask cb dly per name =>
    [.schedAddTask (BitVec.ofNat 8 cb) (BitVec.ofNat 16 dly) (BitVec.ofNat 16 per) (BitVec.ofNat 16 name)]
  | .dispatchSlot slot => [.schedDispatchSlot (BitVec.ofNat 8 slot)]
  | .setRelay id lvl => [.setRelay (BitVec.ofNat 8 id) (BitVec.ofNat 8 lvl)]
  | .setLed lvl => [.setLed (BitVec.ofNat 8 lvl)]
  | .delayMs ms => [.delayMs (BitVec.ofNat 32 ms)]
  | .addSeqTask => [.schedAddTask 0 (BitVec.ofNat 16 p.seqInitialDelay) (BitVec.ofNat 16 p.seqPeriod) 0]
  | .startup =>
    [.irqDisable, .periphInit, .schedInit,
      .schedAddTask 0 (BitVec.ofNat 16 p.seqInitialDelay) (BitVec.ofNat 16 p.seqPeriod) 0, .irqEnable, .mainLoop]
  | .allOff => [.setRelay 3 0, .setRelay 2 0, .setRelay 1 0, .setRelay 0 0, .setLed 0]

/-- The words a listing line assembles to; `none` is the assembler error of R89. -/
def assemble (p : Config.Params) (l : Listing) : Option (List OpWord) :=
  if l.wf p then some ((expandListing p l).map encode) else none

end Sys2Proof
end

