-- ==== Sys2Proof/Machine/State.lean ====
section
/-! DEFINITION. The block's state (spec/10_state.md R20 to R52) as plain data, the reasons a step stops, and the
state after reset. -/

namespace Sys2Proof.Machine

/-- The fault codes of spec/60_exceptions.md R231. Raising one is an effect of the machine (R232), not a stop
of the model. Their numbers are `FaultCode.code` (Flags.lean). -/
inductive FaultCode where
  | none | capacity | badPeriod | lateConfig | reentrant | illegalOp | notReady | wrongContext
  | badCallback | badOperand | dupSequencer | halt
deriving DecidableEq, Repr

/-- Why the model's step stops with a fault. -/
inductive Fault where
  /-- Raised by `step` in a block that is HALTED or holds a fault code: "no agent takes another step" (R232),
  and a run ends there (R220). Safe: the spec gives no further step. -/
  | halted
  /-- Raised by the boot-program fetch when `pc` is not an index of the program. R24: `pc` of a well-formed
  program never passes its end, so no run reaches it. Safe. -/
  | fetchOutsideProgram
deriving DecidableEq, Repr

/-- Why the model refuses to run. -/
inductive Refusal where
  /-- An arm of `exec` without a meaning. No arm of this model answers it. Safe. -/
  | notModelled (mnemonic : String)
  /-- Raised by `step` when the boot program is not well-formed (spec/44_control.md R217: "A model refuses to
  run a program that is not well-formed"). Safe. -/
  | illFormedProgram
deriving DecidableEq, Repr

/-- The task context's position (R25). -/
inductive Phase where
  /-- Running the boot program at `pc`. -/
  | boot
  /-- A dispatch pass that has reached slot `i` (R130 writes it there, R131 after a callback of slot `i - 1`). -/
  | dispatch (i : Nat)
  /-- Running the callback of slot `i`, at continuation `k`: the next micro-step of PSEQ_STEP, or the number of
  steps an EXTERNAL callback has completed (log entry 26). -/
  | inCallback (i k : Nat)
  /-- The main loop's idle step. -/
  | wait
  /-- After a fault. -/
  | halted
deriving DecidableEq, Repr

/-- A hold in progress (R13, R239). -/
inductive Hold where
  /-- No operation is holding. -/
  | none
  /-- DELAY_MS holds until this many ticks have elapsed since `delay_start` (R196). -/
  | delay (ms : Nat)
  /-- WAIT_IRQ holds until `isr_seen` is 1 (R215). -/
  | waitIrq
deriving DecidableEq, Repr

/-- A Task Descriptor (R37). -/
structure Slot where
  cb : Byte
  /-- Taken modulo 2^NAME_WIDTH. -/
  name : Nat
  /-- Taken modulo 2^TIME_WIDTH, as the next two. -/
  initialDelay : Nat
  period : Nat
  countdown : Nat
  due : Bool
deriving DecidableEq, Repr

/-- A slot that no registration has written: the spec leaves its fields unspecified and no operation reads
them (R36, R37). DESIGN CHOICE: zeros, log entry 6. -/
def Slot.unwritten : Slot :=
  { cb := 0, name := 0, initialDelay := 0, period := 0, countdown := 0, due := false }

/-- The outputs of R40, by name. -/
inductive OutId where
  | neutral | liveRes | liveDirect | speaker | led
deriving DecidableEq, Repr

/-- The five output latches of R40; `true` is energized, enabled or lit. -/
structure Outputs where
  neutral : Bool
  liveRes : Bool
  liveDirect : Bool
  speaker : Bool
  led : Bool
deriving DecidableEq, Repr

/-- One event of the output log (R42). -/
structure OutEvent where
  id : OutId
  level : Bool
  tick : Nat
deriving DecidableEq, Repr

/-- The Power State of R43; 9 to 255 are invalid. -/
inductive PowerState where
  | off | neutralEnergized | liveViaResistor | speakerPrecharge | on
  | shutdownStep1 | shutdownStep2 | shutdownStep3 | shutdownBlink | invalid
deriving DecidableEq, Repr

/-- What the last READ_BUTTON or GET_TICKS returned to its issuer: the model's own observation, read by no
operation (log entry 19). -/
inductive OpResult where
  | none
  | level (raw : Bool)
  | ticks (t : Nat)
deriving DecidableEq, Repr

/-- The environment of R3 and the free choices of the next step, as data: the model's own fields. -/
structure Environment where
  /-- The agent the next step belongs to (log entry 2). -/
  turn : Agent
  /-- The raw level of the button line, `button_raw` of R41 (log entry 3). -/
  buttonRaw : Bool
  /-- What an EXTERNAL callback does next (log entry 4). -/
  extMove : ExtMove
  /-- How many times the choices have been drawn (log entry 8). -/
  draws : Nat
deriving DecidableEq, Repr

/-- Who issues an operation (spec/30_encoding.md R85, spec/60_exceptions.md R243). -/
inductive Context where
  /-- The boot program. -/
  | boot
  /-- The MAIN_LOOP body, outside a pass. -/
  | mainLoop
  /-- A dispatch pass, between slots. -/
  | dispatch
  /-- The body of callback 0. -/
  | sequencer
  /-- The body of an EXTERNAL callback. -/
  | external
  /-- The interrupt mechanism and the ISR. -/
  | interrupt
  /-- The environment. -/
  | environment
  /-- A stopped task context, which issues nothing. -/
  | halted
deriving DecidableEq, Repr

/-- What happens to the power state when a PSEQ_STEP invocation ends (spec/42_power_sequencer.md R157, R158). -/
inductive Transition where
  | goto (p : PowerState)
  | gotoIfEdge (p : PowerState)
  | tickPhase (n : Nat) (p : PowerState)
deriving DecidableEq, Repr

/-- A micro-step of PSEQ_STEP after the sample (R150). -/
inductive Micro where
  | write (id : OutId) (v : Bool)
  | blinkLed
  | settle
  | finish (t : Transition)
deriving DecidableEq, Repr

/-- The state of the block: the record of R20, the continuation of R239, the environment, the model's
observation, and the configuration, which R20 says is not state and which no step writes (log entry 1). -/
structure State where
  /-- R24. -/
  pc : Half
  /-- R25. -/
  phase : Phase
  /-- R26. -/
  inDispatch : Bool
  /-- The loop variable `i` of the pass in progress (spec/41_scheduler.md R130), the slot it reaches next (log entry 12). -/
  passIndex : Nat
  /-- R27. -/
  inIsr : Bool
  /-- R28. -/
  irqEnabled : Bool
  /-- R29. -/
  periphReady : Bool
  /-- R30. -/
  mainEntered : Bool
  /-- R31: taken modulo 2^TICK_WIDTH. -/
  tickCount : Nat
  /-- R32. -/
  timerRunning : Bool
  /-- R33. -/
  timerPending : Bool
  /-- R34. -/
  schedReady : Bool
  /-- R35. -/
  taskCount : Byte
  /-- R36: the registry, allocated once with MAX_TASKS entries. -/
  slots : List Slot
  /-- R38. -/
  seqRegistered : Bool
  /-- R40. -/
  out : Outputs
  /-- R42, the oldest event first. -/
  outLog : List OutEvent
  /-- R43. -/
  pstate : Byte
  /-- R44: taken modulo 2^PHASE_TIMER_WIDTH. -/
  phaseTimer : Nat
  /-- R45. -/
  prevPressed : Bool
  /-- R46. -/
  blink : Bool
  /-- R47. -/
  fault : Byte
  /-- R48. -/
  isrSeen : Bool
  /-- R49: taken modulo 2^TICK_WIDTH. -/
  delayStart : Nat
  /-- R239: the hold in progress. -/
  hold : Hold
  /-- R150: the local variable `edge` of the invocation in progress. -/
  edge : Bool
  /-- The model's observation of a returned result. -/
  result : OpResult
  /-- The environment and the free choices. -/
  env : Environment
  /-- The parameters (R8). -/
  params : Config.Params
  /-- The boot program (R24, R217). -/
  program : List OpWord
deriving DecidableEq, Repr

/-- Right after reset (R52, R260, R261). The values R52 leaves unspecified are named in log entries 5, 6 and 7,
those of the model's own fields in log entry 8; the program is empty until one is loaded (log entry 1). -/
def State.reset : State where
  pc := 0
  phase := .boot
  inDispatch := false
  passIndex := 0
  inIsr := false
  irqEnabled := false
  periphReady := false
  mainEntered := false
  tickCount := 0
  timerRunning := false
  timerPending := false
  schedReady := false
  taskCount := 0
  slots := List.replicate Config.machine.maxTasks.toNat Slot.unwritten
  seqRegistered := false
  out := { neutral := false, liveRes := false, liveDirect := false, speaker := false, led := false }
  outLog := []
  pstate := 0
  phaseTimer := 0
  prevPressed := false
  blink := false
  fault := 0
  isrSeen := false
  delayStart := 0
  hold := .none
  edge := false
  result := .none
  env := { turn := .task, buttonRaw := true, extMove := .work, draws := 0 }
  params := Config.machine
  program := []

end Sys2Proof.Machine
end

