-- ==== Sys2Proof/Machine/Operands.lean ====
section
/-! DEFINITION. Every operand form: relay ids and levels (spec/30_encoding.md R83, spec/10_state.md R40), slot and
callback indices (R36, R136), the Power State encoding (R43). -/

namespace Sys2Proof.Machine

/-- A value written to a `w`-bit field (spec/00_scope.md R11). -/
def wrapTo (w n : Nat) : Nat := n % 2 ^ w

/-- `a -w b`: the difference modulo 2^w (R11). -/
def subWrap (w a b : Nat) : Nat := (a + (2 ^ w - b % 2 ^ w)) % 2 ^ w

/-- R40: the id number of an output. -/
def OutId.number : OutId → Nat
  | .neutral => 0
  | .liveRes => 1
  | .liveDirect => 2
  | .speaker => 3
  | .led => 4

/-- SET_RELAY's ID operand: 0 to 3 are valid; the LED is reached only by SET_LED (spec/43_io_drivers.md R194). -/
def relayOfId (id : Byte) : Option OutId :=
  if id = 0 then some .neutral
  else if id = 1 then some .liveRes
  else if id = 2 then some .liveDirect
  else if id = 3 then some .speaker
  else none

/-- A LVL operand: 0 and 1 are valid (R83). -/
def levelOf (lvl : Byte) : Option Bool :=
  if lvl = 0 then some false else if lvl = 1 then some true else none

/-- The level of one latch. -/
def Outputs.get (o : Outputs) : OutId → Bool
  | .neutral => o.neutral
  | .liveRes => o.liveRes
  | .liveDirect => o.liveDirect
  | .speaker => o.speaker
  | .led => o.led

/-- `out[id] <- v`. -/
def Outputs.set (o : Outputs) (id : OutId) (v : Bool) : Outputs :=
  match id with
  | .neutral => { o with neutral := v }
  | .liveRes => { o with liveRes := v }
  | .liveDirect => { o with liveDirect := v }
  | .speaker => { o with speaker := v }
  | .led => { o with led := v }

/-- The electrical level of an output's pin: OUTPUT_POLARITY applied to the latch (R197). No rule reads it. -/
def State.pinLevel (s : State) (id : OutId) : Bool := s.out.get id == s.params.outputPolarity

/-- `slot[i]`. -/
def State.slotAt (s : State) (i : Nat) : Slot := (s.slots[i]?).getD Slot.unwritten

/-- `slot[i] <- sl`: one entry of the registry. -/
def State.setSlot (s : State) (i : Nat) (sl : Slot) : State := { s with slots := s.slots.set i sl }

/-- Whether an index names a registered slot (R36). -/
def State.registered (s : State) (i : Nat) : Bool := decide (i < s.taskCount.toNat)

/-- Entry 0 of the callback table is PSEQ_STEP, every other entry EXTERNAL (spec/41_scheduler.md R136). -/
def isSequencer (cb : Byte) : Bool := cb == 0

/-- The encoding of the Power State (R43); 9 to 255 are invalid. -/
def PowerState.ofBits (v : Byte) : PowerState :=
  if v = 0 then .off
  else if v = 1 then .neutralEnergized
  else if v = 2 then .liveViaResistor
  else if v = 3 then .speakerPrecharge
  else if v = 4 then .on
  else if v = 5 then .shutdownStep1
  else if v = 6 then .shutdownStep2
  else if v = 7 then .shutdownStep3
  else if v = 8 then .shutdownBlink
  else .invalid

/-- The value of a Power State (R43). No rule writes the invalid one; 9 is the first invalid value. -/
def PowerState.toBits : PowerState → Byte
  | .off => 0
  | .neutralEnergized => 1
  | .liveViaResistor => 2
  | .speakerPrecharge => 3
  | .on => 4
  | .shutdownStep1 => 5
  | .shutdownStep2 => 6
  | .shutdownStep3 => 7
  | .shutdownBlink => 8
  | .invalid => 9

end Sys2Proof.Machine
end

