-- ==== Sys2Proof/Machine/Flags.lean ====
section
/-! DEFINITION. Every flag the spec computes (the block has no condition codes, spec/10_state.md R22): the button
edge, the due flag and countdown of a tick, the enabling conditions of the two events, the lifting
conditions of the two holds, the fault codes. -/

namespace Sys2Proof.Machine

/-- The numbers of spec/60_exceptions.md R231. -/
def FaultCode.code : FaultCode → Byte
  | .none => 0x00
  | .capacity => 0x01
  | .badPeriod => 0x02
  | .lateConfig => 0x03
  | .reentrant => 0x04
  | .illegalOp => 0x05
  | .notReady => 0x06
  | .wrongContext => 0x07
  | .badCallback => 0x08
  | .badOperand => 0x09
  | .dupSequencer => 0x0A
  | .halt => 0x0B

/-- `pressed <- NOT raw`: the button is active-low (spec/43_io_drivers.md R193). -/
def pressedOf (raw : Bool) : Bool := !raw

/-- `edge <- pressed AND NOT prev_pressed` (spec/42_power_sequencer.md R151). -/
def edgeOf (pressed prevPressed : Bool) : Bool := pressed && !prevPressed

/-- One slot under SCHED_TICK (spec/41_scheduler.md R126), its countdown of `w` bits: decrement, and at zero set the due flag and reload. A
due flag already 1 stays 1 (R127). -/
def tickSlot (w : Nat) (sl : Slot) : Slot :=
  if subWrap w sl.countdown 1 = 0 then { sl with due := true, countdown := sl.period }
  else { sl with countdown := subWrap w sl.countdown 1 }

/-- The first `n` slots of the registry under SCHED_TICK, in registration order (R126); free slots are not
touched. -/
def tickSlots (w : Nat) : Nat → List Slot → List Slot
  | 0, sls => sls
  | _ + 1, [] => []
  | n + 1, sl :: sls => tickSlot w sl :: tickSlots w n sls

/-- `tick_count + 1`, modulo 2^TICK_WIDTH (spec/40_tick_source.md R102, R105). -/
def State.nextTick (s : State) : Nat := wrapTo s.params.tickWidth (s.tickCount + 1)

/-- `tick_count - delay_start`, modulo 2^TICK_WIDTH: the ticks elapsed in a delay (R196). -/
def State.elapsed (s : State) : Nat := subWrap s.params.tickWidth s.tickCount s.delayStart

/-- DELAY_MS's hold is lifted: `(tick_count -32 delay_start) >= MS` (R196). -/
def State.delayDone (s : State) (ms : Nat) : Bool := decide (ms ≤ s.elapsed)

/-- TIMER_FIRE is enabled (spec/40_tick_source.md R101). -/
def State.fireEnabled (s : State) : Bool := s.timerRunning && s.fault == 0

/-- The task context is at an interrupt point, one of the places of spec/60_exceptions.md R238 and no other: between two boot
words, at the interrupt points of a pass, between two steps of a callback, before the WAIT_IRQ of the main loop, and
while a hold holds. R238's "only at these places" is taken over the sentence of spec/20_memory.md R64 that closes its
list of atomic units (log entry 31). -/
def State.atInterruptPoint (s : State) : Bool :=
  match s.phase, s.hold with
  | .halted, _ => false
  | _, .delay ms => !s.delayDone ms
  | _, .waitIrq => !s.isrSeen
  | .boot, .none => s.inDispatch || s.pc != 0
  | .dispatch _, .none => true
  | .inCallback _ k, .none => k != 0
  | .wait, .none => true

/-- TICK_ISR is enabled (R102, R236). -/
def State.isrEnabled (s : State) : Bool :=
  s.timerPending && s.irqEnabled && s.fault == 0 && s.atInterruptPoint

/-- The block has stopped: phase HALTED or a recorded fault (R232). -/
def State.isHalted (s : State) : Bool := s.phase == .halted || s.fault != 0

/-- `phase is IN_CALLBACK(_, _)` (spec/41_scheduler.md R130). -/
def Phase.isCallback : Phase → Bool
  | .boot => false
  | .dispatch _ => false
  | .inCallback _ _ => true
  | .wait => false
  | .halted => false

/-- Who issues the operation of the next step (R85, R243). -/
def State.context (s : State) : Context :=
  match s.env.turn with
  | .environment => .environment
  | .interrupt => .interrupt
  | .task =>
    match s.phase with
    | .boot => .boot
    | .dispatch _ => .dispatch
    | .inCallback i _ => if isSequencer (s.slotAt i).cb then .sequencer else .external
    | .wait => .mainLoop
    | .halted => .halted

/-- The class column of R85: whether an operation may be issued in a context. SCHED_DISPATCH inside a pass or a
callback passes here, because its own check answers REENTRANT there (spec/41_scheduler.md R130; log entry 17). -/
def mayIssue (i : Instr) (c : Context) : Bool :=
  match i with
  | .schedInit => c == .boot
  | .schedAddTask _ _ _ _ => c == .boot
  | .schedDispatch => c == .boot || c == .mainLoop || c == .dispatch || c == .sequencer || c == .external
  | .schedDispatchSlot _ => c == .dispatch
  | .schedTick => c == .interrupt
  | .timerFire => c == .environment
  | .tickIsr => c == .interrupt
  | .periphInit => c == .boot
  | .irqDisable => c == .boot
  | .irqEnable => c == .boot
  | .waitIrq => c == .boot || c == .mainLoop
  | .mainLoop => c == .boot
  | .fatalHalt => c == .boot
  | .pseqStep => c == .sequencer
  | .readButton => c == .boot || c == .sequencer
  | .setRelay _ _ => c == .boot || c == .sequencer
  | .setLed _ => c == .boot || c == .sequencer
  | .getTicks => c == .boot || c == .external
  | .delayMs _ => c == .boot || c == .external || c == .sequencer

end Sys2Proof.Machine
end

