-- ==== Sys2Proof/Machine/Ops.lean ====
section
/-! DEFINITION. The operations the meanings share: raising a fault and the order of its checks, the interrupt's
entry and return, completing an operation, the output write, the two holds, the scheduler's tick and pass. -/

namespace Sys2Proof.Machine

/-- What one step answers. -/
abbrev Result := Host.Outcome State Fault Refusal

/-- Apply a function to the next state of an answer. -/
def mapNext (f : State → State) : Result → Result
  | .next s => .next (f s)
  | .fault r => .fault r
  | .refused r => .refused r

/-! ### Faults (spec/60_exceptions.md R232, R242) -/

/-- `raise Fault(c)`: the first fault wins (0 is NONE, R231), the phase becomes HALTED, and every other field keeps its value
(R232). There is no return from a fault: only reset leaves HALTED. -/
def raiseFault (c : FaultCode) (s : State) : State :=
  { s with fault := if s.fault = 0 then c.code else s.fault, phase := .halted }

/-- The step of an operation that raises a fault. -/
def raised (c : FaultCode) (s : State) : Result := .next (raiseFault c s)

/-- The first condition that holds, in the order the operation tests them (R242). -/
def firstFault : List (Bool × FaultCode) → Option FaultCode
  | [] => none
  | (b, c) :: rest => if b then some c else firstFault rest

/-- An operation behind its checks: the first that fails is raised, else the body runs. -/
def checked (checks : List (Bool × FaultCode)) (s : State) (body : Result) : Result :=
  match firstFault checks with
  | some c => raised c s
  | none => body

/-- The class check of R243, the first check of every operation. -/
def wrongClass (i : Instr) (s : State) : Bool × FaultCode := (!mayIssue i s.context, .wrongContext)

/-! ### The tick interrupt (R239, R240) -/

/-- Interrupt entry: the continuation (phase, pc, micro-step, hold) stays where it is, no mask changes, and
`in_isr` is 1 while the handler runs. -/
def enterInterrupt (s : State) : State := { s with inIsr := true }

/-- Interrupt return: the task context resumes at its continuation. -/
def leaveInterrupt (s : State) : State := { s with inIsr := false }

/-! ### Completing an operation of the task context -/

/-- `pc <- pc + 1` (spec/10_state.md R24). -/
def nextWord (s : State) : State := { s with pc := s.pc + 1 }

/-- An operation completes: a boot word advances `pc` (R24), a callback its continuation (R25). -/
def complete (s : State) : State :=
  match s.phase with
  | .boot => nextWord s
  | .inCallback i k => { s with phase := .inCallback i (k + 1) }
  | .dispatch _ => s
  | .wait => s
  | .halted => s

/-- A callback returns: SCHED_DISPATCH_SLOT goes on with `phase <- DISPATCH(i + 1)` (spec/41_scheduler.md R131). -/
def returnFromCallback (i : Nat) (s : State) : State := { s with phase := .dispatch (i + 1) }

/-! ### Outputs and input (spec/43_io_drivers.md R192, R197) -/

/-- `WriteOutput(id, v)`: the latch, then one event of the log (R197). -/
def writeOutput (id : OutId) (v : Bool) (s : State) : State :=
  { s with out := s.out.set id v, outLog := s.outLog ++ [{ id := id, level := v, tick := s.tickCount }] }

/-- The order of the all-off writes (spec/42_power_sequencer.md R155, spec/44_control.md R210). -/
def allOffOrder : List OutId := [.speaker, .liveDirect, .liveRes, .neutral, .led]

/-- Writes of level 0 to several outputs, in order. -/
def clearOutputs (ids : List OutId) (s : State) : State := ids.foldl (fun t id => writeOutput id false t) s

/-- `ReadButton()`: the level of the line at this step. It writes no state (R192). -/
def State.readButton (s : State) : Bool := s.env.buttonRaw

/-! ### Holds (spec/00_scope.md R13) -/

/-- DELAY_MS starts (R196): `delay_start` takes the count; a hold already over completes at once. -/
def startDelay (ms : Nat) (s : State) : State :=
  let s₁ := { s with delayStart := s.tickCount }
  if s₁.delayDone ms then complete s₁ else { s₁ with hold := .delay ms }

/-- A hold ends and its operation completes. -/
def endHold (s : State) : State := complete { s with hold := .none }

/-- WAIT_IRQ starts (spec/44_control.md R215). The phase is WAIT already in the MAIN_LOOP body, BOOT in a boot
word, and keeps its value. -/
def startWait (s : State) : State := { s with isrSeen := false, hold := .waitIrq }

/-! ### The scheduler (spec/41_scheduler.md) -/

/-- SCHED_TICK (R126): its faults, or the registry after one tick. -/
def schedTickOp (s : State) : Except FaultCode State :=
  if !s.inIsr then .error .wrongContext
  else if !s.schedReady then .error .notReady
  else .ok { s with slots := tickSlots s.params.timeWidth s.taskCount.toNat s.slots }

/-- `slot[i].due <- 0` (R131). -/
def clearDue (i : Nat) (s : State) : State := s.setSlot i { s.slotAt i with due := false }

/-- SCHED_DISPATCH starts a pass (R130): its checks, then `in_dispatch <- 1`, and its loop begins at slot 0. The phase is
written after the interrupt point that follows, by `passStep` (Task.lean). -/
def startPass (s : State) : Result :=
  checked [(!s.schedReady, .notReady), (s.phase.isCallback || s.inDispatch, .reentrant)]
    s (.next { s with inDispatch := true, passIndex := 0 })

/-- The pass ends (R130): the boot use goes back to the boot program, the MAIN_LOOP use to WAIT. `main_entered`
tells them apart, since MAIN_LOOP never completes (R213; log entry 13). -/
def endPass (s : State) : State :=
  let s₁ := { s with inDispatch := false }
  if s.mainEntered then { s₁ with phase := .wait } else nextWord { s₁ with phase := .boot }

end Sys2Proof.Machine
end

