-- ==== Sys2Proof/Machine/Control.lean ====
section
/-! DEFINITION. The startup and main-loop control operations of spec/44_control.md: PERIPH_INIT, IRQ_DISABLE,
IRQ_ENABLE, WAIT_IRQ, MAIN_LOOP, FATAL_HALT. -/

namespace Sys2Proof.Machine

/-- PERIPH_INIT (R210), one atomic step: all outputs to 0, the I/O ready, the timer running. -/
def execPeriphInit (s : State) : Result :=
  checked [wrongClass .periphInit s, (s.irqEnabled, .lateConfig)] s
    (.next (nextWord { clearOutputs allOffOrder s with periphReady := true, timerRunning := true }))

/-- IRQ_DISABLE (R211). -/
def execIrqDisable (s : State) : Result :=
  checked [wrongClass .irqDisable s] s (.next (nextWord { s with irqEnabled := false }))

/-- IRQ_ENABLE (R212). -/
def execIrqEnable (s : State) : Result :=
  checked [wrongClass .irqEnable s] s (.next (nextWord { s with irqEnabled := true }))

/-- WAIT_IRQ (R215): the start of the wait. Its hold goes on in later steps (Task.lean). -/
def execWaitIrq (s : State) : Result :=
  checked [wrongClass .waitIrq s] s (.next (startWait s))

/-- MAIN_LOOP (R213): `main_entered <- 1` and the first SCHED_DISPATCH of the loop, with no interrupt point
between them (R238; log entry 11). `pc` stays at this word. -/
def execMainLoop (s : State) : Result :=
  checked [wrongClass .mainLoop s] s (startPass { s with mainEntered := true })

/-- FATAL_HALT (R216). -/
def execFatalHalt (s : State) : Result :=
  checked [wrongClass .fatalHalt s] s (raised .halt s)

end Sys2Proof.Machine
end

