-- ==== Sys2Proof/Machine/IoDrivers.lean ====
section
/-! DEFINITION. The output, input and delay operations of spec/43_io_drivers.md: READ_BUTTON, SET_RELAY, SET_LED,
DELAY_MS. -/

namespace Sys2Proof.Machine

/-- READ_BUTTON (R191): the raw level is the result; no field of the block is written. -/
def execReadButton (s : State) : Result :=
  checked [wrongClass .readButton s, (!s.periphReady, .notReady)] s
    (.next (complete { s with result := .level s.readButton }))

/-- SET_RELAY (R194). BAD_OPERAND for an id of 4 or more or a level of 2 or more. -/
def execSetRelay (id lvl : Byte) (s : State) : Result :=
  checked [wrongClass (.setRelay id lvl) s, (!s.periphReady, .notReady)] s
    (match relayOfId id, levelOf lvl with
    | some r, some v => .next (complete (writeOutput r v s))
    | _, _ => raised .badOperand s)

/-- SET_LED (R195). BAD_OPERAND for a level of 2 or more. -/
def execSetLed (lvl : Byte) (s : State) : Result :=
  checked [wrongClass (.setLed lvl) s, (!s.periphReady, .notReady)] s
    (match levelOf lvl with
    | some v => .next (complete (writeOutput .led v s))
    | none => raised .badOperand s)

/-- DELAY_MS (R196): the start of the delay. Its hold goes on in later steps (Task.lean). -/
def execDelayMs (ms : Tick) (s : State) : Result :=
  checked [wrongClass (.delayMs ms) s] s (.next (startDelay ms.toNat s))

end Sys2Proof.Machine
end

