-- ==== Sys2Proof/Machine/Scheduler.lean ====
section
/-! DEFINITION. The scheduler operations of spec/41_scheduler.md: SCHED_INIT, SCHED_ADD_TASK, SCHED_DISPATCH,
SCHED_DISPATCH_SLOT, SCHED_TICK. -/

namespace Sys2Proof.Machine

/-- SCHED_INIT (R121). The slots are not written. -/
def execSchedInit (s : State) : Result :=
  checked [wrongClass .schedInit s, (s.irqEnabled || s.mainEntered, .lateConfig)] s
    (.next (nextWord { s with taskCount := 0, seqRegistered := false, schedReady := true }))

/-- The Task Descriptor that SCHED_ADD_TASK writes (R122): the countdown starts at the initial delay, or at the
period when the delay is zero. -/
def newSlot (p : Config.Params) (cb : Byte) (dly per name : Half) : Slot :=
  { cb := cb, name := wrapTo p.nameWidth name.toNat, initialDelay := wrapTo p.timeWidth dly.toNat,
    period := wrapTo p.timeWidth per.toNat,
    countdown := wrapTo p.timeWidth (if dly != 0 then dly.toNat else per.toNat), due := false }

/-- The registration itself (R122). -/
def registerTask (cb : Byte) (dly per name : Half) (s : State) : State :=
  { s.setSlot s.taskCount.toNat (newSlot s.params cb dly per name) with
    taskCount := s.taskCount + 1, seqRegistered := isSequencer cb || s.seqRegistered }

/-- SCHED_ADD_TASK (R122), its checks in the priority order of R242. -/
def execSchedAddTask (cb : Byte) (dly per name : Half) (s : State) : Result :=
  checked
    [wrongClass (.schedAddTask cb dly per name) s,
      (!s.schedReady, .notReady),
      (s.irqEnabled || s.mainEntered, .lateConfig),
      (decide (s.params.numCallbacks ≤ cb.toNat), .badCallback),
      (per == 0, .badPeriod),
      (isSequencer cb && s.seqRegistered, .dupSequencer),
      (s.taskCount == s.params.maxTasks, .capacity)]
    s (.next (nextWord (registerTask cb dly per name s)))

/-- SCHED_DISPATCH (R130): the first step of a pass. The per-slot steps are SCHED_DISPATCH_SLOT's and the last
is `endPass` (`passStep`, Task.lean). -/
def execSchedDispatch (s : State) : Result :=
  checked [wrongClass .schedDispatch s] s (startPass s)

/-- SCHED_DISPATCH_SLOT (R131): the atomic test-and-clear of the due flag, then the call when it was 1. The phase is
written by the call alone. -/
def execSchedDispatchSlot (slot : Byte) (s : State) : Result :=
  checked
    [wrongClass (.schedDispatchSlot slot) s,
      (!s.inDispatch, .wrongContext),
      (!s.schedReady, .notReady),
      (!s.registered slot.toNat, .badOperand)]
    s
    (.next { clearDue slot.toNat s with
      phase := if (s.slotAt slot.toNat).due then .inCallback slot.toNat 0 else s.phase })

/-- SCHED_TICK (R126): it runs only inside TICK_ISR. -/
def execSchedTick (s : State) : Result :=
  checked [wrongClass .schedTick s] s
    (match schedTickOp s with
    | .error c => raised c s
    | .ok t => .next t)

end Sys2Proof.Machine
end

