-- ==== Sys2Proof/Machine/Sequencer.lean ====
section
/-! DEFINITION. The power sequencer of spec/42_power_sequencer.md: PSEQ_STEP as its micro-steps, each one atomic
step, with an interrupt point between any two (R150). -/

namespace Sys2Proof.Machine

/-- `goto(s)` (R157): every transition resets the phase timer. -/
def gotoState (p : PowerState) (s : State) : State := { s with pstate := p.toBits, phaseTimer := 0 }

/-- `tick_phase(N, s)` (R158). -/
def tickPhase (n : Nat) (p : PowerState) (s : State) : State :=
  let timer := wrapTo s.params.phaseTimerWidth (s.phaseTimer + 1)
  if n ≤ timer then gotoState p s else { s with phaseTimer := timer }

/-- The transition that ends an invocation. -/
def applyTransition (t : Transition) (s : State) : State :=
  match t with
  | .goto p => gotoState p s
  | .gotoIfEdge p => if s.edge then gotoState p s else s
  | .tickPhase n p => tickPhase n p s

/-- `blink_led()` (R156): toggle, then write the LED. -/
def blinkLed (s : State) : State := writeOutput .led (!s.blink) { s with blink := !s.blink }

/-- `all_off()` (R155). -/
def allOffMicros : List Micro := allOffOrder.map (fun id => .write id false)

/-- The micro-steps 1..n of an invocation (R150, rules R159 to R168): the action of the power state in the list
order of its table cell (R154), then the transition. The table's "reset phase timer" is part of the `goto`
that follows it (R157). -/
def microProgram (p : Config.Params) : PowerState → List Micro
  | .off => allOffMicros ++ [.finish (.gotoIfEdge .neutralEnergized)]
  | .neutralEnergized => [.write .neutral true, .write .led true, .finish (.goto .liveViaResistor)]
  | .liveViaResistor => [.write .liveRes true, .blinkLed, .finish (.tickPhase p.n1 .speakerPrecharge)]
  | .speakerPrecharge =>
    [.write .liveDirect true, .settle, .write .liveRes false, .blinkLed, .finish (.tickPhase p.n2 .on)]
  | .on => [.write .led true, .write .speaker true, .finish (.gotoIfEdge .shutdownStep1)]
  | .shutdownStep1 => [.write .led false, .write .speaker false, .finish (.goto .shutdownStep2)]
  | .shutdownStep2 => [.write .led true, .write .liveDirect false, .finish (.goto .shutdownStep3)]
  | .shutdownStep3 => [.write .led false, .write .neutral false, .finish (.goto .shutdownBlink)]
  | .shutdownBlink => [.blinkLed, .finish (.tickPhase p.n3 .off)]
  | .invalid => allOffMicros ++ [.finish (.goto .off)]

/-- Micro-step 0 (R151): sample, edge, `prev_pressed`. -/
def sampleButton (s : State) : State :=
  { s with
    edge := edgeOf (pressedOf s.readButton) s.prevPressed
    prevPressed := pressedOf s.readButton }

/-- One micro-step after the sample, in the callback of slot `i`. The transition is the last one, and with it
the call returns (R150, R137). The settle step is DELAY_MS(SETTLE_MS) (R162), and SETTLE_MS goes in as it is: one of
2^TICK_WIDTH or more is a delay that no count of ticks ends (log entry 32). -/
def runMicro (i : Nat) (m : Micro) (s : State) : State :=
  match m with
  | .write id v => complete (writeOutput id v s)
  | .blinkLed => complete (blinkLed s)
  | .settle => startDelay s.params.settleMs s
  | .finish t => returnFromCallback i (applyTransition t s)

/-- Micro-step `k` of the invocation that runs as the callback of slot `i`. -/
def microStep (i k : Nat) (s : State) : State :=
  match k with
  | 0 => complete (sampleButton s)
  | j + 1 =>
    match (microProgram s.params (PowerState.ofBits s.pstate))[j]? with
    | some m => runMicro i m s
    | none => returnFromCallback i s

/-- PSEQ_STEP (R150): the micro-step at the continuation of the callback, behind the checks of micro-step 0. -/
def execPseqStep (s : State) : Result :=
  match s.phase with
  | .inCallback i k =>
    checked [wrongClass .pseqStep s, (k == 0 && !s.periphReady, .notReady)] s (.next (microStep i k s))
  | _ => raised .wrongContext s

end Sys2Proof.Machine
end

