-- ==== Sys2Proof/Machine/TickSource.lean ====
section
/-! DEFINITION. The tick source operations of spec/40_tick_source.md: TIMER_FIRE, TICK_ISR, GET_TICKS. An event
that is not enabled has no step (R101, R102), so its turn changes nothing (log entry 23). -/

namespace Sys2Proof.Machine

/-- TIMER_FIRE (R101). -/
def execTimerFire (s : State) : Result :=
  checked [wrongClass .timerFire s] s
    (.next (if s.fireEnabled then { s with timerPending := true } else s))

/-- The body of the ISR (R102), one atomic step: entry, the count, SCHED_TICK, `isr_seen`, the acknowledge,
return. When SCHED_TICK raises, the entry and the count stay and nothing after them is written (R232). -/
def tickIsrBody (s : State) : Result :=
  let s₁ := { enterInterrupt s with tickCount := s.nextTick }
  match schedTickOp s₁ with
  | .error c => raised c s₁
  | .ok s₂ => .next (leaveInterrupt { s₂ with isrSeen := true, timerPending := false })

/-- TICK_ISR (R102, R236). -/
def execTickIsr (s : State) : Result :=
  checked [wrongClass .tickIsr s] s (if s.isrEnabled then tickIsrBody s else .next s)

/-- GET_TICKS (R103): the count is the result; nothing else is written. -/
def execGetTicks (s : State) : Result :=
  checked [wrongClass .getTicks s] s (.next (complete { s with result := .ticks s.tickCount }))

end Sys2Proof.Machine
end

