-- ==== Sys2Proof/Machine/Dispatch.lean ====
section
/-! DEFINITION. The meaning of every operation: one arm per row of spec/opcode_table.json. -/

namespace Sys2Proof.Machine

/-- One atomic step of an operation, issued in the context that the state says. -/
def exec (i : Instr) (s : State) : Host.Outcome State Fault Refusal :=
  match i with
  | .schedInit => Sys2Proof.Machine.execSchedInit s
  | .schedAddTask cb dly per name => Sys2Proof.Machine.execSchedAddTask cb dly per name s
  | .schedDispatch => Sys2Proof.Machine.execSchedDispatch s
  | .schedDispatchSlot slot => Sys2Proof.Machine.execSchedDispatchSlot slot s
  | .schedTick => Sys2Proof.Machine.execSchedTick s
  | .timerFire => Sys2Proof.Machine.execTimerFire s
  | .tickIsr => Sys2Proof.Machine.execTickIsr s
  | .periphInit => Sys2Proof.Machine.execPeriphInit s
  | .irqDisable => Sys2Proof.Machine.execIrqDisable s
  | .irqEnable => Sys2Proof.Machine.execIrqEnable s
  | .waitIrq => Sys2Proof.Machine.execWaitIrq s
  | .mainLoop => Sys2Proof.Machine.execMainLoop s
  | .fatalHalt => Sys2Proof.Machine.execFatalHalt s
  | .pseqStep => Sys2Proof.Machine.execPseqStep s
  | .readButton => Sys2Proof.Machine.execReadButton s
  | .setRelay id lvl => Sys2Proof.Machine.execSetRelay id lvl s
  | .setLed lvl => Sys2Proof.Machine.execSetLed lvl s
  | .getTicks => Sys2Proof.Machine.execGetTicks s
  | .delayMs ms => Sys2Proof.Machine.execDelayMs ms s

end Sys2Proof.Machine
end

