-- ==== Sys2Proof/Machine/Task.lean ====
section
/-! DEFINITION. One step of each agent outside the operations themselves: the boot-program fetch
(spec/10_state.md R24, spec/30_encoding.md R86), the hold in progress, the body of the main loop
(spec/44_control.md R213, R214), the dispatch pass (spec/41_scheduler.md R130), the callbacks (R137, R138), and
the free choices drawn after a step. -/

namespace Sys2Proof.Machine

/-- The word at `pc`. -/
def State.fetchWord (s : State) : Option OpWord := s.program[s.pc.toNat]?

/-- The boot program's next operation: fetch, decode, run; a word that does not decode raises ILLEGAL_OP. -/
def fetchStep (s : State) : Result :=
  match s.fetchWord with
  | none => .fault .fetchOutsideProgram
  | some w =>
    match decode w with
    | none => raised .illegalOp s
    | some i => exec i s

/-- One step of an EXTERNAL callback in slot `i` at continuation `k` (R138). -/
def externalStep (i k : Nat) (s : State) : Result :=
  match s.env.extMove with
  | .work => .next { s with phase := .inCallback i (k + 1) }
  | .getTicks => exec .getTicks s
  | .delay ms => exec (.delayMs ms) s
  | .ret => .next (returnFromCallback i s)

/-- The loop of a pass goes on from an interrupt point (R130): `phase <- DISPATCH(i)` and SCHED_DISPATCH_SLOT `i` in one
step, or the end of the pass. -/
def passStep (s : State) : Result :=
  if s.passIndex < s.taskCount.toNat then
    exec (.schedDispatchSlot (BitVec.ofNat 8 s.passIndex))
      { s with phase := .dispatch s.passIndex, passIndex := s.passIndex + 1 }
  else .next (endPass s)

/-- The step of a task context that is not holding, by its phase (R25). At the first interrupt point of a pass the phase is
still BOOT or WAIT, and `in_dispatch` tells the pass from the boot program and the idle step. -/
def phaseStep (s : State) : Result :=
  match s.phase with
  | .boot => if s.inDispatch then passStep s else fetchStep s
  | .dispatch _ => passStep s
  | .inCallback i k => if isSequencer (s.slotAt i).cb then exec .pseqStep s else externalStep i k s
  | .wait => if s.inDispatch then passStep s else exec .waitIrq s
  | .halted => .fault .halted

/-- WAIT_IRQ's hold is lifted (R215, R240): a boot use completes, and the MAIN_LOOP use goes on with the next
SCHED_DISPATCH, which is the task context's next step (log entry 14). -/
def afterWait (s : State) : Result :=
  match s.phase with
  | .wait => exec .schedDispatch { s with hold := .none }
  | _ => .next (endHold s)

/-- One step of the task context. A hold whose condition is false has no step, and the turn changes nothing
(R13). -/
def taskStep (s : State) : Result :=
  match s.hold with
  | .none => phaseStep s
  | .delay ms => if s.delayDone ms then .next (endHold s) else .next s
  | .waitIrq => if s.isrSeen then afterWait s else .next s

/-- One step of the agent whose turn it is (spec/20_memory.md R69, spec/60_exceptions.md R236). -/
def agentStep (s : State) : Result :=
  match s.env.turn with
  | .task => taskStep s
  | .interrupt => exec .tickIsr s
  | .environment => exec .timerFire s

/-- The free choices of the next step are drawn: whose turn it is, the button line, the EXTERNAL callback's
move (log entries 2, 3, 4). -/
def drawChoices (s : State) : State :=
  { s with
    env := { turn := Config.nextTurn s.env.draws, buttonRaw := Config.buttonLevel s.env.draws,
             extMove := Config.externalMove s.env.draws, draws := s.env.draws + 1 } }

/-- A program whose word at index `n` is `w`: the words before it are kept (ILLEGAL_OP words fill a gap), those
after it too if the program still ends properly, else FATAL_HALT follows. -/
def placeWord (p : List OpWord) (n : Nat) (w : OpWord) : List OpWord :=
  let before := p.take n ++ List.replicate (n - p.length) 0#64
  let after := p.drop (n + 1)
  before ++ w :: (if endsProperly after then after else [fatalHaltWord])

end Sys2Proof.Machine
end

