-- ==== Sys2Proof/Machine/Step.lean ====
section
/-! DEFINITION. One step of the machine: one atomic step of the agent whose turn it is (spec/20_memory.md R64,
R69), then the free choices of the next. -/

namespace Sys2Proof.Machine

/-- One step. A program that is not well-formed is refused (spec/44_control.md R217); a HALTED block has no
step (spec/60_exceptions.md R232). -/
def step (s : State) : Host.Outcome State Fault Refusal :=
  if !programWf s.program then .refused .illFormedProgram
  else if s.isHalted then .fault .halted
  else mapNext drawChoices (agentStep s)

/-- The load of a boot program from outside the machine (log entry 1), with the instruction `w` where the next
step fetches: the task context's turn, in phase BOOT, in no pass, holding nothing, the word at `pc`. -/
def State.withFetchWord (s : State) (nbits w : Nat) : State :=
  { s with
    program := placeWord s.program s.pc.toNat (tableWord nbits w)
    phase := .boot
    inDispatch := false
    hold := .none
    env := { s.env with turn := .task } }

end Sys2Proof.Machine
end

