-- ==== Sys2Proof/Machine/Assembler.lean ====
section
/-! DEFINITION. The listing text of spec/30_encoding.md R89: one operation a line, the mnemonic, then the operands
separated by commas, name=value pairs in format T and positional otherwise, decimal or `0x` hexadecimal, relay
ids by name, `;` before a comment. What R89 leaves to the reader of a line (blanks, letter case) is log
entry 29. -/

namespace Sys2Proof.Machine

/-- A line without its comment. -/
def stripComment : List Char → List Char
  | [] => []
  | c :: cs => if c = ';' then [] else c :: stripComment cs

/-- Characters without the blanks before and after them. -/
def trimBlanks (cs : List Char) : List Char :=
  ((cs.dropWhile (· == ' ')).reverse.dropWhile (· == ' ')).reverse

/-- Characters cut at every separator. -/
def splitAtChar (sep : Char) : List Char → List (List Char)
  | [] => [[]]
  | c :: cs =>
    if c = sep then [] :: splitAtChar sep cs
    else
      match splitAtChar sep cs with
      | [] => [[c]]
      | part :: parts => (c :: part) :: parts

/-- The value of a digit in a base. -/
def digitOf (base : Nat) (c : Char) : Option Nat :=
  let v :=
    if '0' ≤ c ∧ c ≤ '9' then c.toNat - '0'.toNat
    else if 'a' ≤ c ∧ c ≤ 'f' then c.toNat - 'a'.toNat + 10
    else if 'A' ≤ c ∧ c ≤ 'F' then c.toNat - 'A'.toNat + 10
    else base
  if v < base then some v else none

/-- The number that digits write after a value `acc`. -/
def digitsOf (base : Nat) : Nat → List Char → Option Nat
  | acc, [] => some acc
  | acc, c :: cs => (digitOf base c).bind fun d => digitsOf base (acc * base + d) cs

/-- "Numbers are decimal or `0x` hexadecimal." -/
def numberOf : List Char → Option Nat
  | [] => none
  | ['0', 'x'] => none
  | '0' :: 'x' :: cs => digitsOf 16 0 cs
  | c :: cs => digitsOf 10 0 (c :: cs)

/-- "Relay ids may be written by name." -/
def relayNumberOf (cs : List Char) : Option Nat :=
  if cs = "NEUTRAL".toList then some 0
  else if cs = "LIVE_RES".toList then some 1
  else if cs = "LIVE_DIRECT".toList then some 2
  else if cs = "SPEAKER".toList then some 3
  else numberOf cs

/-- The value of `name=value`. -/
def namedNumber (name : String) (cs : List Char) : Option Nat :=
  if cs.take (name.length + 1) = name.toList ++ ['='] then numberOf (cs.drop (name.length + 1)) else none

/-- The mnemonics of format Z. -/
def plainOf (mnemonic : String) : Option Instr :=
  ([("SCHED_INIT", .schedInit), ("SCHED_DISPATCH", .schedDispatch), ("PERIPH_INIT", .periphInit),
    ("IRQ_DISABLE", .irqDisable), ("IRQ_ENABLE", .irqEnable), ("WAIT_IRQ", .waitIrq), ("MAIN_LOOP", .mainLoop),
    ("FATAL_HALT", .fatalHalt), ("READ_BUTTON", .readButton), ("GET_TICKS", .getTicks),
    ("PSEQ_STEP", .pseqStep), ("TIMER_FIRE", .timerFire), ("TICK_ISR", .tickIsr),
    ("SCHED_TICK", .schedTick)] : List (String × Instr)).lookup mnemonic

/-- One operation from its mnemonic and its operands. -/
def listingOf (mnemonic : String) (args : List (List Char)) : Option Listing :=
  match args with
  | [] =>
    if mnemonic = "ADD_SEQ_TASK" then some .addSeqTask
    else if mnemonic = "STARTUP" then some .startup
    else if mnemonic = "ALL_OFF" then some .allOff
    else (plainOf mnemonic).map .plain
  | [a] =>
    if mnemonic = "SCHED_DISPATCH_SLOT" then (numberOf a).map .dispatchSlot
    else if mnemonic = "SET_LED" then (numberOf a).map .setLed
    else if mnemonic = "DELAY_MS" then (numberOf a).map .delayMs
    else none
  | [a, b] =>
    if mnemonic = "SET_RELAY" then
      (relayNumberOf a).bind fun id => (numberOf b).map fun lvl => .setRelay id lvl
    else none
  | [a, b, c, d] =>
    if mnemonic = "SCHED_ADD_TASK" then
      (namedNumber "cb" a).bind fun cb => (namedNumber "delay" b).bind fun dly =>
        (namedNumber "period" c).bind fun per => (namedNumber "name" d).map fun name => .addTask cb dly per name
    else none
  | _ => none

/-- One line: the operation it lists, nothing for a blank or comment line, `none` for an error. -/
def parseLine (line : String) : Option (List Listing) :=
  let body := trimBlanks (stripComment line.toList)
  if body = [] then some []
  else
    let rest := trimBlanks (body.dropWhile (· != ' '))
    let args := if rest = [] then [] else (splitAtChar ',' rest).map trimBlanks
    (listingOf (String.ofList (body.takeWhile (· != ' '))) args).map fun l => [l]

/-- The boot program a text lists. -/
def assembleText (p : Config.Params) : List String → Option (List OpWord)
  | [] => some []
  | line :: lines =>
    (parseLine line).bind fun ls => (ls.mapM (assemble p)).bind fun words =>
      (assembleText p lines).map fun more => words.flatten ++ more

end Sys2Proof.Machine
end

