-- ==== Sys2Proof/Safety.lean ====
section
/-! DEFINITION. What counts as a good state and a good run, in the terms the statements use: the registry
invariants of spec/10_state.md R39, the control state of R24 to R27, the sequencer record of R43 and R44, the
relay rules of spec/42_power_sequencer.md R175 and R176, the output log of R42. -/

namespace Sys2Proof.Safety

open Sys2Proof.Machine

/-- R39 (a) and (b) for one registered slot, and the widths of its fields (R37). -/
def SlotOk (p : Config.Params) (sl : Slot) : Prop :=
  1 ≤ sl.period ∧ 1 ≤ sl.countdown ∧ sl.countdown ≤ max sl.initialDelay sl.period ∧
    sl.initialDelay < 2 ^ p.timeWidth ∧ sl.period < 2 ^ p.timeWidth ∧ sl.name < 2 ^ p.nameWidth

/-- The registry's invariants: R35 to R39, and "exactly one" sequencer at most (R38). -/
structure RegistryInv (s : State) : Prop where
  /-- The 16-bit operands DLY and PER fit the time fields (R8; log entry 10). -/
  time_width : 16 ≤ s.params.timeWidth
  /-- R36: MAX_TASKS entries, allocated once. -/
  length : s.slots.length = s.params.maxTasks.toNat
  /-- R35. -/
  count_le : s.taskCount.toNat ≤ s.params.maxTasks.toNat
  /-- R39 (a), (b). -/
  slots_ok : ∀ i, i < s.taskCount.toNat → SlotOk s.params (s.slotAt i)
  /-- R38: 1 when some registered slot has `cb = 0`. -/
  seq_iff : s.seqRegistered = true ↔ ∃ i, i < s.taskCount.toNat ∧ isSequencer (s.slotAt i).cb = true
  /-- R38: at most one slot is the sequencer's. -/
  seq_unique : ∀ i j, i < s.taskCount.toNat → j < s.taskCount.toNat →
    isSequencer (s.slotAt i).cb = true → isSequencer (s.slotAt j).cb = true → i = j
  /-- Nothing is registered before SCHED_INIT (R34, R35; the model's reset value, log entry 6). -/
  before_init : s.schedReady = false → s.taskCount = 0

/-- The control state's invariants: `pc` stays inside the program (R24), the phase agrees with `in_dispatch` and the loop of
the pass (R25, R26, R130), `in_isr` is 1 in no step of the task context (R27), MAIN_LOOP never completes (R213), a fault
and HALTED come together (R232), the count and the delay's start have TICK_WIDTH bits (R31, R49). What it says of
MAIN_LOOP's first pass rests on log entry 11, what it says of holds on log entry 14. -/
structure ControlInv (s : State) : Prop where
  program_wf : programWf s.program = true
  pc_lt : s.pc.toNat < s.program.length
  fault_iff : s.fault = 0 ↔ s.phase ≠ .halted
  in_isr : s.inIsr = true → s.phase = .halted
  tick_width : s.tickCount < 2 ^ s.params.tickWidth
  delay_width : s.delayStart < 2 ^ s.params.tickWidth
  dispatch : ∀ i, s.phase = .dispatch i →
    s.inDispatch = true ∧ s.hold = .none ∧ (s.passIndex = i ∨ s.passIndex = i + 1) ∧ s.passIndex ≤ s.taskCount.toNat
  callback : ∀ i k, s.phase = .inCallback i k →
    s.inDispatch = true ∧ i < s.taskCount.toNat ∧ s.passIndex = i + 1
  /-- Before the first interrupt point of a pass has passed, the phase is still BOOT or WAIT (R130). -/
  pass_start : s.inDispatch = true → s.phase = .boot ∨ s.phase = .wait → s.passIndex = 0 ∧ s.hold = .none
  boot : s.phase = .boot → s.inDispatch = false → s.mainEntered = false
  wait : s.phase = .wait → s.mainEntered = true
  /-- R213: `pc` stays at the MAIN_LOOP word. -/
  main_word : s.mainEntered = true → s.fetchWord = some mainLoopWord
  hold_delay : ∀ ms, s.hold = .delay ms →
    s.phase = .boot ∨ (∃ i k, s.phase = .inCallback i k) ∨ s.phase = .halted
  hold_wait : s.hold = .waitIrq → s.phase = .boot ∨ s.phase = .wait ∨ s.phase = .halted
  /-- A boot operation in progress stands before the program's last word. -/
  boot_op : s.mainEntered = false → s.phase ≠ .halted →
    s.phase ≠ .boot ∨ s.inDispatch = true ∨ s.hold ≠ .none → s.pc.toNat + 1 < s.program.length

/-- The sequencer record: no invalid power state (R43, R234), and the bound and the width of R44 on the phase timer. -/
def SequencerInv (s : State) : Prop :=
  s.pstate.toNat ≤ 8 ∧ s.phaseTimer ≤ max (max s.params.n1 s.params.n2) (max s.params.n3 1) ∧
    s.phaseTimer < 2 ^ s.params.phaseTimerWidth

/-- R175: `NOT (out[NEUTRAL] = 0 AND (out[LIVE_DIRECT] = 1 OR out[LIVE_RES] = 1))`. -/
def NeutralFirst (o : Outputs) : Prop :=
  ¬(o.neutral = false ∧ (o.liveDirect = true ∨ o.liveRes = true))

/-- The micro-step of the invocation in progress, 0 when none is. -/
def seqMicro (s : State) : Nat :=
  match s.phase with
  | .inCallback i k => if isSequencer (s.slotAt i).cb then k else 0
  | _ => 0

/-- The latches that each power state may see at each micro-step (R159 to R168), the relays only. -/
def StageOk (timer k : Nat) (o : Outputs) : PowerState → Prop
  | .off => o.liveRes = false ∧ o.liveDirect = false
  | .neutralEnergized => o.liveRes = false ∧ o.liveDirect = false ∧ (2 ≤ k → o.neutral = true)
  | .liveViaResistor =>
    o.neutral = true ∧ o.liveDirect = false ∧ (2 ≤ k ∨ timer ≠ 0 → o.liveRes = true)
  | .speakerPrecharge =>
    o.neutral = true ∧ (o.liveRes = true ∨ o.liveDirect = true) ∧ (2 ≤ k → o.liveDirect = true) ∧
      (4 ≤ k → o.liveRes = false)
  | .on => o.neutral = true ∧ o.liveDirect = true ∧ o.liveRes = false
  | .shutdownStep1 => o.neutral = true ∧ o.liveDirect = true ∧ o.liveRes = false
  | .shutdownStep2 => o.neutral = true ∧ o.liveRes = false ∧ (3 ≤ k → o.liveDirect = false)
  | .shutdownStep3 => o.liveRes = false ∧ o.liveDirect = false ∧ (3 ≤ k → o.neutral = false)
  | .shutdownBlink => o.neutral = false ∧ o.liveRes = false ∧ o.liveDirect = false
  | .invalid => False

/-- The inductive form of R175 and R176, for boot programs that write no relay (R175, R279) and run no dispatch
pass of their own (R214: the main loop is the only task-context activity after boot; log entry 20). -/
structure RelayInv (s : State) : Prop where
  no_relay_word : ∀ w ∈ s.program, ∀ id lvl, decode w ≠ some (.setRelay id lvl)
  no_boot_pass : ∀ w ∈ s.program, decode w ≠ some .schedDispatch
  boot_phase : s.mainEntered = false → (s.phase = .boot ∧ s.inDispatch = false) ∨ s.phase = .halted
  main_phase : s.mainEntered = true → s.phase = .boot → s.inDispatch = true ∧ s.hold = .none
  boot_off : s.mainEntered = false → s.pstate = 0 ∧
    (s.periphReady = true → s.out.neutral = false ∧ s.out.liveRes = false ∧ s.out.liveDirect = false)
  ready : 0 < seqMicro s → s.periphReady = true
  /-- R162: the only hold of a sequencer invocation is the settle delay, micro-step 2 of SPEAKER_PRECHARGE. -/
  settle : ∀ i k, s.phase = .inCallback i k → isSequencer (s.slotAt i).cb = true → s.hold ≠ .none →
    k = 2 ∧ s.periphReady = true ∧ PowerState.ofBits s.pstate = .speakerPrecharge
  stage : s.periphReady = true → StageOk s.phaseTimer (seqMicro s) s.out (PowerState.ofBits s.pstate)
  stage_valid : PowerState.ofBits s.pstate ≠ .invalid

/-- The stretch of R176: from the first LIVE_RES write of LIVE_VIA_RESISTOR until SHUTDOWN_STEP_1 is left. -/
def OnPath (s : State) : Prop :=
  (PowerState.ofBits s.pstate = .liveViaResistor ∧ (2 ≤ seqMicro s ∨ s.phaseTimer ≠ 0)) ∨
    PowerState.ofBits s.pstate = .speakerPrecharge ∨ PowerState.ofBits s.pstate = .on ∨
    PowerState.ofBits s.pstate = .shutdownStep1

/-- The level of the last event of an output in a log. -/
def lastLevel (id : OutId) : List OutEvent → Option Bool
  | [] => none
  | e :: es =>
    match lastLevel id es with
    | some v => some v
    | none => if e.id = id then some e.level else none

/-- Every latch that has been written holds the level of its last event (R42, R197). -/
def LatchInv (s : State) : Prop := ∀ id v, lastLevel id s.outLog = some v → s.out.get id = v

/-- `n` micro-steps of PSEQ_STEP with no interrupt between them. -/
def microSteps : Nat → State → Result
  | 0, s => .next s
  | n + 1, s =>
    match exec .pseqStep s with
    | .next t => microSteps n t
    | .fault r => .fault r
    | .refused r => .refused r

/-- The operation of a step is issued by the boot program. -/
def AtBoot (s : State) : Prop := s.env.turn = .task ∧ s.phase = .boot

/-- The next micro-step is number `k` of a sequencer invocation in slot `i`. -/
def AtMicro (i k : Nat) (s : State) : Prop :=
  s.env.turn = .task ∧ s.phase = .inCallback i k ∧ (s.slotAt i).cb = 0

/-- The next step is an EXTERNAL callback's, in slot `i` at continuation `k`. -/
def AtExternal (i k : Nat) (s : State) : Prop :=
  s.env.turn = .task ∧ s.phase = .inCallback i k ∧ (s.slotAt i).cb ≠ 0

/-- The next step is the task context's, and it is not holding. -/
def TaskReady (s : State) : Prop := s.env.turn = .task ∧ s.hold = .none

/-- A pass is in progress and stands at an interrupt point of its loop (R130), the first one included. -/
def InPass (s : State) : Prop :=
  s.inDispatch = true ∧ (s.phase = .boot ∨ s.phase = .wait ∨ ∃ i, s.phase = .dispatch i)

/-- The places of R238: between two boot words, the interrupt points of a pass, between two steps of a callback body,
before the WAIT_IRQ of the main loop, and while a hold holds. -/
def InterruptPoint (s : State) : Prop :=
  (s.hold = .none ∧
    ((s.phase = .boot ∧ s.inDispatch = false ∧ s.pc ≠ 0) ∨ InPass s ∨ (∃ i, s.phase = .dispatch i) ∨
      (∃ i k, s.phase = .inCallback i (k + 1)) ∨ s.phase = .wait)) ∨
  (s.phase ≠ .halted ∧
    ((∃ ms, s.hold = .delay ms ∧ s.delayDone ms = false) ∨ (s.hold = .waitIrq ∧ s.isrSeen = false)))

/-- How many of the first `k` steps from a state execute the ISR (R104). -/
def isrCount : Nat → State → Nat
  | 0, _ => 0
  | k + 1, s =>
    match step s with
    | .next t => (if s.env.turn = .interrupt ∧ s.isrEnabled = true then 1 else 0) + isrCount k t
    | .fault _ => 0
    | .refused _ => 0

/-- The block runs: a well-formed program and no fault. -/
def Running (s : State) : Prop := programWf s.program = true ∧ s.fault = 0 ∧ s.phase ≠ .halted

/-! ### Runs and fairness (spec/70_reset_and_hazards.md R270) -/

/-- A next state for some choice of the free values: the step of the agent whose turn it is, in a block that runs, and then
any environment. -/
def NextFor (s t : State) : Prop :=
  Running s ∧ ∃ u env, agentStep s = .next u ∧ t = { u with env := env }

/-- An infinite run, under some schedule and some draws of the environment. -/
def IsRun (r : Nat → State) : Prop := ∀ n, NextFor (r n) (r (n + 1))

/-- The task context holds: a hold is in progress and its condition is false (R13). -/
def Holding (s : State) : Prop :=
  (∃ ms, s.hold = .delay ms ∧ s.delayDone ms = false) ∨ (s.hold = .waitIrq ∧ s.isrSeen = false)

/-- Infinitely often along a run. -/
def Infinitely (P : Nat → Prop) : Prop := ∀ n, ∃ m, n ≤ m ∧ P m

/-- R270 (1): while the timer runs and no fault is recorded, TIMER_FIRE occurs infinitely often. -/
def TimerFair (r : Nat → State) : Prop :=
  ∀ n, (∀ m, n ≤ m → (r m).timerRunning = true ∧ (r m).fault = 0) →
    Infinitely fun m => (r m).env.turn = .environment

/-- R270 (2): an interrupt that stays pending and enabled, with the task context at an interrupt point infinitely often, is
taken. -/
def InterruptFair (r : Nat → State) : Prop :=
  ∀ n, (∀ m, n ≤ m → (r m).timerPending = true ∧ (r m).irqEnabled = true ∧ (r m).fault = 0) →
    Infinitely (fun m => InterruptPoint (r m)) →
      ∃ m, n ≤ m ∧ (r m).env.turn = .interrupt ∧ InterruptPoint (r m)

/-- R270 (3): a task context that is neither holding nor HALTED takes its next step. -/
def TaskFair (r : Nat → State) : Prop :=
  ∀ n, ¬ Holding (r n) → (r n).phase ≠ .halted → ∃ m, n ≤ m ∧ (r m).env.turn = .task ∧ ¬ Holding (r m)

/-- A run under the three fairness assumptions of R270. -/
structure FairRun (r : Nat → State) : Prop where
  run : IsRun r
  timer : TimerFair r
  interrupt : InterruptFair r
  task : TaskFair r

/-- The edge signal over consecutive samples of the raw line, from a previous pressed level (R151, R170). -/
def edges : Bool → List Bool → List Bool
  | _, [] => []
  | prev, raw :: raws => edgeOf (pressedOf raw) prev :: edges (pressedOf raw) raws

/-- Whether the next tick, taken with the flag clear, sets the due flag of a slot with time fields of `w` bits. -/
def firesNext (w : Nat) (sl : Slot) : Bool := (tickSlot w { sl with due := false }).due

end Sys2Proof.Safety
end

