-- ==== Sys2Proof/Certificates/Slice0/Obligations.lean ====
section
/-! DEFINITION. The statements for the provers, from the numbered rules of spec/. A result statement says the
whole next state, so it is its own frame: every field it does not name keeps its value. -/

open Sys2Proof Sys2Proof.Machine Sys2Proof.Safety

/-! ### Encoding (spec/30_encoding.md) -/

/-- R82, R83, R85: the word of an operation decodes to it, every operand at every value of its field. -/
def Obligations.DecodeOfEncode : Prop := ∀ i : Instr, decode (encode i) = some i

/-- R82, R86: every word that decodes is the one word of its operation, so no bit is dropped. -/
def Obligations.EncodeOfDecode : Prop := ∀ (w : OpWord) (i : Instr), decode w = some i → encode i = w

/-- R86: a word is illegal exactly when its OP is not in the map of R85 or a reserved bit of its format is set. -/
def Obligations.IllegalWordsExactly : Prop :=
  ∀ w : OpWord, decode w = none ↔
    (w.extractLsb' 56 8).toNat ∉ [0x01, 0x02, 0x03, 0x04, 0x05, 0x08, 0x09, 0x10, 0x11, 0x12, 0x13, 0x14, 0x15,
      0x18, 0x20, 0x21, 0x22, 0x23, 0x24] ∨
    ((w.extractLsb' 56 8).toNat ∈ [0x01, 0x03, 0x05, 0x08, 0x09, 0x10, 0x11, 0x12, 0x13, 0x14, 0x15, 0x18, 0x20,
      0x23] ∧ w.extractLsb' 0 56 ≠ 0) ∨
    ((w.extractLsb' 56 8).toNat ∈ [0x04, 0x22] ∧ w.extractLsb' 0 48 ≠ 0) ∨
    ((w.extractLsb' 56 8).toNat = 0x21 ∧ w.extractLsb' 0 40 ≠ 0) ∨
    ((w.extractLsb' 56 8).toNat = 0x24 ∧ w.extractLsb' 32 24 ≠ 0)

/-- R91: the worked words decode to the operations they stand for (and the all-zero word to none). -/
def Obligations.SampleWordsDecode : Prop :=
  decode 0x0100000000000000 = some .schedInit ∧
  decode 0x0200006400640000 = some (.schedAddTask 0 100 100 0) ∧
  decode 0x2102010000000000 = some (.setRelay 2 1) ∧
  decode 0x2201000000000000 = some (.setLed 1) ∧
  decode 0x2400000000000005 = some (.delayMs 5) ∧
  decode 0x1400000000000000 = some .mainLoop ∧
  decode 0x1100000000000000 = some .irqDisable ∧
  decode 0x1000000000000000 = some .periphInit ∧
  decode 0x1200000000000000 = some .irqEnable ∧
  decode 0x0000000000000000 = none

/-! ### The step -/

/-- R24, R64: at a boot word, with no pass in progress, a step is the meaning of the decoded operation, and then the free choices of the
next step are drawn (the model's own fields, log entries 2 to 4). -/
def Obligations.StepRunsDecodedInstruction : Prop :=
  ∀ (s : State) (w : OpWord) (i : Instr), Running s → TaskReady s → s.phase = .boot → s.inDispatch = false →
    s.program[s.pc.toNat]? = some w → decode w = some i → step s = mapNext drawChoices (exec i s)

/-- R86: executing an illegal word raises ILLEGAL_OP, and nothing else of the block changes (R232). -/
def Obligations.IllegalWordRaisesIllegalOp : Prop :=
  ∀ (s : State) (w : OpWord), Running s → TaskReady s → s.phase = .boot → s.inDispatch = false →
    s.program[s.pc.toNat]? = some w → decode w = none →
    step s = .next (drawChoices { s with fault := 0x05, phase := .halted })

/-- R69, R130, R137, R138, R213 to R215: what every step runs that no hold answers. The interrupt's and the environment's
turns are TICK_ISR and TIMER_FIRE; the boot program fetches; a pass writes its phase and runs SCHED_DISPATCH_SLOT slot by
slot, then ends; callback 0 runs PSEQ_STEP, an EXTERNAL callback its next move; the MAIN_LOOP body runs WAIT_IRQ after a
pass. The draws after the step are the model's (log entries 2 to 4), and so is the loop variable `passIndex` (log
entry 12). -/
def Obligations.StepRunsTheContextsOperation : Prop :=
  ∀ s : State, Running s →
    (s.env.turn = .interrupt → step s = mapNext drawChoices (exec .tickIsr s)) ∧
    (s.env.turn = .environment → step s = mapNext drawChoices (exec .timerFire s)) ∧
    (TaskReady s → s.phase = .boot → s.inDispatch = false → step s = mapNext drawChoices (fetchStep s)) ∧
    (TaskReady s → InPass s → s.passIndex < s.taskCount.toNat →
      step s = mapNext drawChoices (exec (.schedDispatchSlot (BitVec.ofNat 8 s.passIndex))
        { s with phase := .dispatch s.passIndex, passIndex := s.passIndex + 1 })) ∧
    (TaskReady s → InPass s → s.taskCount.toNat ≤ s.passIndex → step s = .next (drawChoices (endPass s))) ∧
    (∀ i k, TaskReady s → s.phase = .inCallback i k → (s.slotAt i).cb = 0 →
      step s = mapNext drawChoices (exec .pseqStep s)) ∧
    (∀ i k, TaskReady s → s.phase = .inCallback i k → (s.slotAt i).cb ≠ 0 →
      step s = mapNext drawChoices (externalStep i k s)) ∧
    (TaskReady s → s.phase = .wait → s.inDispatch = false → step s = mapNext drawChoices (exec .waitIrq s))

/-- R217: a program that is empty, too long, or does not end with MAIN_LOOP or FATAL_HALT is refused. -/
def Obligations.IllFormedProgramRefused : Prop :=
  ∀ s : State,
    (s.program = [] ∨ 65535 < s.program.length ∨
      (s.program.getLast? ≠ some (encode .mainLoop) ∧ s.program.getLast? ≠ some (encode .fatalHalt))) →
    step s = .refused .illFormedProgram

/-- R232, R220: after a fault no agent takes another step. That the model's step then answers the model fault `halted`
is the model's choice (log entry 21). -/
def Obligations.HaltedBlockTakesNoStep : Prop :=
  ∀ s : State, programWf s.program = true → s.phase = .halted ∨ s.fault ≠ 0 → step s = .fault .halted

/-- R52: the reset values the spec gives (the unspecified ones are the model's, log entries 5, 6, 7, and are not
stated here). -/
def Obligations.ResetValuesTheSpecGives : Prop :=
  State.reset.pc = 0 ∧ State.reset.phase = .boot ∧ State.reset.inDispatch = false ∧ State.reset.inIsr = false ∧
  State.reset.irqEnabled = false ∧ State.reset.periphReady = false ∧ State.reset.timerRunning = false ∧
  State.reset.mainEntered = false ∧ State.reset.schedReady = false ∧ State.reset.seqRegistered = false ∧
  State.reset.isrSeen = false ∧ State.reset.tickCount = 0 ∧ State.reset.timerPending = false ∧
  State.reset.outLog = [] ∧ State.reset.pstate = 0 ∧ State.reset.phaseTimer = 0 ∧
  State.reset.prevPressed = false ∧ State.reset.blink = false ∧ State.reset.fault = 0

/-! ### Tick source (spec/40_tick_source.md) -/

/-- R101: TIMER_FIRE sets the pending flag when it is enabled, also when it is set already (the fire is lost),
and has no step otherwise; that its turn then changes nothing is the model's choice (log entry 23). -/
def Obligations.TimerFireSetsPending : Prop :=
  ∀ s : State, s.env.turn = .environment →
    exec .timerFire s = .next (if s.timerRunning = true ∧ s.fault = 0 then { s with timerPending := true } else s)

/-- R102, R126, R239, R240: at an interrupt point TICK_ISR counts (modulo 2^TICK_WIDTH), ticks every registered slot,
sets `isr_seen`, acknowledges, and leaves the task context where it was. The interrupt points are the places that
R238 lists; that R64's sentence adds none to them is the model's reading (log entry 31). -/
def Obligations.TickIsrRuns : Prop :=
  ∀ s : State, s.env.turn = .interrupt → s.timerPending = true → s.irqEnabled = true → s.fault = 0 →
    InterruptPoint s → s.schedReady = true →
    ∃ t, exec .tickIsr s = .next t ∧
      t = { s with tickCount := (s.tickCount + 1) % 2 ^ s.params.tickWidth, slots := t.slots, isrSeen := true,
                   timerPending := false, inIsr := false } ∧
      t.slots.length = s.slots.length ∧
      (∀ i, i < s.taskCount.toNat → i < s.slots.length →
        t.slotAt i = if subWrap s.params.timeWidth (s.slotAt i).countdown 1 = 0
          then { s.slotAt i with due := true, countdown := (s.slotAt i).period }
          else { s.slotAt i with countdown := subWrap s.params.timeWidth (s.slotAt i).countdown 1 }) ∧
      (∀ i, s.taskCount.toNat ≤ i → t.slotAt i = s.slotAt i)

/-- R102, R232: before SCHED_INIT the ISR raises NOT_READY; its entry and its count stay, the acknowledge and
`isr_seen` do not happen. While it is not enabled, and anywhere but at an interrupt point, it has no step; that its
turn then changes nothing is the model's choice (log entry 23). The interrupt points are the places that
R238 lists. That there is none anywhere else, so none before a callback's first step and none once a hold is lifted,
although R64 puts one between any two task-context steps, is the model's reading (log entry 31). -/
def Obligations.TickIsrNotReadyOrNotEnabled : Prop :=
  ∀ s : State, s.env.turn = .interrupt →
    (s.timerPending = true → s.irqEnabled = true → s.fault = 0 → InterruptPoint s → s.schedReady = false →
      exec .tickIsr s =
        .next { s with inIsr := true, tickCount := (s.tickCount + 1) % 2 ^ s.params.tickWidth, fault := 0x06,
                       phase := .halted }) ∧
    (s.timerPending = false ∨ s.irqEnabled = false ∨ s.fault ≠ 0 ∨ ¬ InterruptPoint s → exec .tickIsr s = .next s)

/-- R103, R191, R192: GET_TICKS returns the count and READ_BUTTON the raw level of the line, in every context that
may issue them, and no field of the block changes but the continuation. Where the result goes (`result`) and what an
EXTERNAL continuation counts are the model's choice (log entries 19, 26). -/
def Obligations.ReadsReturnTheirValue : Prop :=
  ∀ s : State,
    (AtBoot s → exec .getTicks s = .next { s with result := .ticks s.tickCount, pc := s.pc + 1 }) ∧
    (∀ i k, AtExternal i k s →
      exec .getTicks s = .next { s with result := .ticks s.tickCount, phase := .inCallback i (k + 1) }) ∧
    (AtBoot s → s.periphReady = true →
      exec .readButton s = .next { s with result := .level s.env.buttonRaw, pc := s.pc + 1 }) ∧
    (∀ i k, AtMicro i k s → s.periphReady = true →
      exec .readButton s = .next { s with result := .level s.env.buttonRaw, phase := .inCallback i (k + 1) })

/-- R104: over any number of steps the Tick Counter grows by exactly the number of ISR executions, modulo
2^TICK_WIDTH. -/
def Obligations.TickCounterCountsInterrupts : Prop :=
  ∀ (k : Nat) (s t : State), s.tickCount < 2 ^ s.params.tickWidth → core.run k s = .next t →
    t.tickCount = (s.tickCount + isrCount k s) % 2 ^ s.params.tickWidth

/-! ### Scheduler (spec/41_scheduler.md) -/

/-- R121: SCHED_INIT empties the registry; no slot is written. -/
def Obligations.SchedInitEmptiesRegistry : Prop :=
  ∀ s : State, AtBoot s → s.irqEnabled = false → s.mainEntered = false →
    exec .schedInit s =
      .next { s with taskCount := 0, seqRegistered := false, schedReady := true, pc := s.pc + 1 }

/-- R122: SCHED_ADD_TASK writes the next slot, each field modulo 2 to its width (R11), and counts it; every other slot
keeps its fields. -/
def Obligations.SchedAddTaskRegisters : Prop :=
  ∀ (s : State) (cb : Byte) (dly per name : Half), AtBoot s → s.schedReady = true → s.irqEnabled = false →
    s.mainEntered = false → cb.toNat < s.params.numCallbacks → per ≠ 0 → (cb = 0 → s.seqRegistered = false) →
    s.taskCount ≠ s.params.maxTasks → s.taskCount.toNat < s.slots.length →
    ∃ t, exec (.schedAddTask cb dly per name) s = .next t ∧
      t = { s with slots := t.slots, taskCount := s.taskCount + 1, pc := s.pc + 1,
                   seqRegistered := if cb = 0 then true else s.seqRegistered } ∧
      t.slotAt s.taskCount.toNat =
        { cb := cb
          name := name.toNat % 2 ^ s.params.nameWidth
          initialDelay := dly.toNat % 2 ^ s.params.timeWidth
          period := per.toNat % 2 ^ s.params.timeWidth
          countdown := (if dly = 0 then per.toNat else dly.toNat) % 2 ^ s.params.timeWidth
          due := false } ∧
      (∀ j, j ≠ s.taskCount.toNat → t.slotAt j = s.slotAt j)

/-- R122, R124, R242: the fault a boot SCHED_ADD_TASK raises is the first in the priority order, and it changes
nothing but the fault register and the phase, so no registered task is corrupted. -/
def Obligations.SchedAddTaskFaultPriority : Prop :=
  ∀ (s : State) (cb : Byte) (dly per name : Half) (c : Byte), AtBoot s → s.fault = 0 →
    (if s.schedReady = false then 0x06
      else if s.irqEnabled = true ∨ s.mainEntered = true then 0x03
      else if s.params.numCallbacks ≤ cb.toNat then 0x08
      else if per = 0 then 0x02
      else if cb = 0 ∧ s.seqRegistered = true then 0x0A
      else if s.taskCount = s.params.maxTasks then 0x01
      else 0x00) = c →
    c ≠ 0 → exec (.schedAddTask cb dly per name) s = .next { s with fault := c, phase := .halted }

/-- R121, R210, R30: SCHED_INIT and PERIPH_INIT after IRQ_ENABLE (SCHED_INIT after MAIN_LOOP too) raise
LATE_CONFIG. -/
def Obligations.LateConfigurationFaults : Prop :=
  ∀ s : State, AtBoot s → s.fault = 0 →
    (s.irqEnabled = true ∨ s.mainEntered = true →
      exec .schedInit s = .next { s with fault := 0x03, phase := .halted }) ∧
    (s.irqEnabled = true → exec .periphInit s = .next { s with fault := 0x03, phase := .halted })

/-- R126: SCHED_TICK inside the ISR decrements every registered countdown, and at zero marks the task due and
reloads; free slots keep their fields. -/
def Obligations.SchedTickDecrementsAndMarks : Prop :=
  ∀ s : State, s.env.turn = .interrupt → s.inIsr = true → s.schedReady = true →
    ∃ t, exec .schedTick s = .next t ∧ t = { s with slots := t.slots } ∧
      (∀ i, i < s.taskCount.toNat → i < s.slots.length →
        t.slotAt i = if subWrap s.params.timeWidth (s.slotAt i).countdown 1 = 0
          then { s.slotAt i with due := true, countdown := (s.slotAt i).period }
          else { s.slotAt i with countdown := subWrap s.params.timeWidth (s.slotAt i).countdown 1 }) ∧
      (∀ i, s.taskCount.toNat ≤ i → t.slotAt i = s.slotAt i)

/-- R130: SCHED_DISPATCH starts a pass, from the boot program or the main loop. The phase is not written before the first
interrupt point; `passIndex` is the model's field for the loop variable (log entry 12). -/
def Obligations.SchedDispatchStartsPass : Prop :=
  ∀ s : State, s.env.turn = .task → s.phase = .boot ∨ s.phase = .wait → s.schedReady = true →
    s.inDispatch = false → exec .schedDispatch s = .next { s with inDispatch := true, passIndex := 0 }

/-- R131, R132: SCHED_DISPATCH_SLOT tests and clears the flag in one step, and calls the slot's callback exactly
when the flag was 1; else the phase stays. No other field of the slot and no other slot changes. -/
def Obligations.SlotStepTestsAndClears : Prop :=
  ∀ (s : State) (slot : Byte) (j : Nat), s.env.turn = .task → s.phase = .dispatch j → s.inDispatch = true →
    s.schedReady = true → slot.toNat < s.taskCount.toNat → slot.toNat < s.slots.length →
    ∃ t, exec (.schedDispatchSlot slot) s = .next t ∧
      t = { s with slots := t.slots,
                   phase := if (s.slotAt slot.toNat).due = true then .inCallback slot.toNat 0 else .dispatch j } ∧
      t.slotAt slot.toNat = { s.slotAt slot.toNat with due := false } ∧
      (∀ i, i ≠ slot.toNat → t.slotAt i = s.slotAt i)

/-- R130, R131, R242: a dispatch before SCHED_INIT raises NOT_READY, one inside a pass or a callback REENTRANT, a
slot that is not registered BAD_OPERAND, a slot before SCHED_INIT NOT_READY, a slot outside a pass WRONG_CONTEXT. That REENTRANT, not WRONG_CONTEXT, answers
inside a pass is the model's reading (log entry 17). -/
def Obligations.DispatchFaults : Prop :=
  ∀ s : State, s.env.turn = .task → s.phase ≠ .halted → s.fault = 0 →
    (s.schedReady = false → exec .schedDispatch s = .next { s with fault := 0x06, phase := .halted }) ∧
    (s.schedReady = true → s.inDispatch = true ∨ (∃ i k, s.phase = .inCallback i k) →
      exec .schedDispatch s = .next { s with fault := 0x04, phase := .halted }) ∧
    (∀ slot j, s.phase = .dispatch j → s.inDispatch = true → s.schedReady = true →
      s.taskCount.toNat ≤ slot.toNat →
      exec (.schedDispatchSlot slot) s = .next { s with fault := 0x09, phase := .halted }) ∧
    (∀ slot j, s.phase = .dispatch j → s.inDispatch = true → s.schedReady = false →
      exec (.schedDispatchSlot slot) s = .next { s with fault := 0x06, phase := .halted }) ∧
    (∀ slot j, s.phase = .dispatch j → s.inDispatch = false →
      exec (.schedDispatchSlot slot) s = .next { s with fault := 0x07, phase := .halted })

/-- R130: when every slot has been tested the pass ends; the main loop goes on to its wait, a boot SCHED_DISPATCH
completes. That `main_entered` tells the two uses apart is the model's reading (log entry 13), `passIndex` its field for
the loop variable (log entry 12). -/
def Obligations.PassEnds : Prop :=
  ∀ s : State, Running s → TaskReady s → InPass s → s.taskCount.toNat ≤ s.passIndex →
    step s = .next (drawChoices
      (if s.mainEntered = true then { s with inDispatch := false, phase := .wait }
        else { s with inDispatch := false, phase := .boot, pc := s.pc + 1 }))

/-- R123: the due flag of a task with initial delay D and period P is set at the D-th, (D+P)-th, (D+2P)-th, … tick
after its registration, and with D = 0 at the P-th, 2P-th, …; the rhythm does not depend on the flag. For every TIME_WIDTH
that holds the 16-bit operands (log entry 10). -/
def Obligations.DueFlagSchedule : Prop :=
  ∀ (p : Config.Params) (cb : Byte) (dly per name : Half) (n : Nat), 16 ≤ p.timeWidth → per ≠ 0 →
    (firesNext p.timeWidth ((tickSlot p.timeWidth)^[n] (newSlot p cb dly per name)) = true ↔
      ∃ m : Nat, n + 1 = (if dly = 0 then per.toNat else dly.toNat) + m * per.toNat)

/-- R72, R127, R133: no due signal is lost. A registered slot's flag stays set through every step but the one
that tests it, and that step calls its callback. -/
def Obligations.DueSignalNeverLost : Prop :=
  ∀ (s t : State) (i : Nat), step s = .next t → i < s.taskCount.toNat → (s.slotAt i).due = true →
    (t.slotAt i).due = true ∨ (s.env.turn = .task ∧ s.passIndex = i ∧ t.phase = .inCallback i 0)

/-- R39 (d), R30, R125: after MAIN_LOOP no step changes the registered tasks but for countdown and due flag. -/
def Obligations.RegistrationFrozenAfterMain : Prop :=
  ∀ s t : State, s.mainEntered = true → step s = .next t →
    t.taskCount = s.taskCount ∧ t.seqRegistered = s.seqRegistered ∧
      ∀ i, (t.slotAt i).cb = (s.slotAt i).cb ∧ (t.slotAt i).name = (s.slotAt i).name ∧
        (t.slotAt i).initialDelay = (s.slotAt i).initialDelay ∧ (t.slotAt i).period = (s.slotAt i).period

/-- R138: a step of an EXTERNAL callback that is not holding always completes, and changes no field of the block but
its own continuation and the `delay_start` of its DELAY_MS (`result` and `env` are the model's own). -/
def Obligations.ExternalCallbackFrame : Prop :=
  ∀ (s : State) (i k : Nat), Running s → AtExternal i k s → s.hold = .none →
    ∃ t, step s = .next t ∧
      t = { s with phase := t.phase, delayStart := t.delayStart, hold := t.hold, result := t.result, env := t.env } ∧
      (t.phase = .inCallback i k ∨ t.phase = .inCallback i (k + 1) ∨ t.phase = .dispatch (i + 1)) ∧
      (t.delayStart = s.delayStart ∨ t.delayStart = s.tickCount)

/-! ### Power sequencer (spec/42_power_sequencer.md) -/

/-- R150, R151, R193: micro-step 0 samples the active-low line, derives the edge and stores the level. -/
def Obligations.SequencerSamplesFirst : Prop :=
  ∀ (s : State) (i : Nat), AtMicro i 0 s → s.periphReady = true →
    exec .pseqStep s =
      .next { s with edge := !s.env.buttonRaw && !s.prevPressed, prevPressed := !s.env.buttonRaw,
                     phase := .inCallback i 1 }

/-- R150: every micro-step of PSEQ_STEP completes, whatever the power state (an invalid one is no fault, R234), and
leaves the control, tick and registry fields as they are. That only micro-step 0 checks `periph_ready` is log entry 18,
and that a continuation past the last micro-step returns, in states no run reaches, is the model's choice (log entry 15). -/
def Obligations.EveryMicroStepCompletes : Prop :=
  ∀ (s : State) (i k : Nat), AtMicro i k s → (k = 0 → s.periphReady = true) →
    ∃ t, exec .pseqStep s = .next t ∧
      (t.phase = .inCallback i k ∨ t.phase = .inCallback i (k + 1) ∨ t.phase = .dispatch (i + 1)) ∧
      t = { s with phase := t.phase, hold := t.hold, delayStart := t.delayStart, edge := t.edge,
                   prevPressed := t.prevPressed, blink := t.blink, pstate := t.pstate, phaseTimer := t.phaseTimer,
                   out := t.out, outLog := t.outLog }

/-- R159, R168, R155: an OFF invocation writes the five all-off outputs in order and leaves OFF only on an edge; an
invocation in an invalid state writes the same five and goes to OFF, with no fault. In this and the next four statements the
number of micro-steps (the last one is the transition and the return) is the model's reading (log entry 15). -/
def Obligations.OffAndInvalidInvocations : Prop :=
  ∀ (s : State) (i : Nat), AtMicro i 0 s → s.periphReady = true →
    (s.pstate = 0 →
      microSteps 7 s = .next
        { s with
          edge := !s.env.buttonRaw && !s.prevPressed
          prevPressed := !s.env.buttonRaw
          out := { neutral := false, liveRes := false, liveDirect := false, speaker := false, led := false }
          outLog := s.outLog ++ [⟨.speaker, false, s.tickCount⟩, ⟨.liveDirect, false, s.tickCount⟩,
            ⟨.liveRes, false, s.tickCount⟩, ⟨.neutral, false, s.tickCount⟩, ⟨.led, false, s.tickCount⟩]
          pstate := if (!s.env.buttonRaw && !s.prevPressed) = true then 1 else 0
          phaseTimer := if (!s.env.buttonRaw && !s.prevPressed) = true then 0 else s.phaseTimer
          phase := .dispatch (i + 1) }) ∧
    (9 ≤ s.pstate.toNat →
      microSteps 7 s = .next
        { s with
          edge := !s.env.buttonRaw && !s.prevPressed
          prevPressed := !s.env.buttonRaw
          out := { neutral := false, liveRes := false, liveDirect := false, speaker := false, led := false }
          outLog := s.outLog ++ [⟨.speaker, false, s.tickCount⟩, ⟨.liveDirect, false, s.tickCount⟩,
            ⟨.liveRes, false, s.tickCount⟩, ⟨.neutral, false, s.tickCount⟩, ⟨.led, false, s.tickCount⟩]
          pstate := 0
          phaseTimer := 0
          phase := .dispatch (i + 1) })

/-- R160, R163: NEUTRAL_ENERGIZED energizes neutral, lights the LED and goes on to LIVE_VIA_RESISTOR whatever the
button does; ON lights the LED, enables the speaker and leaves only on an edge. -/
def Obligations.NeutralAndOnInvocations : Prop :=
  ∀ (s : State) (i : Nat), AtMicro i 0 s → s.periphReady = true →
    (s.pstate = 1 →
      microSteps 4 s = .next
        { s with
          edge := !s.env.buttonRaw && !s.prevPressed
          prevPressed := !s.env.buttonRaw
          out := { s.out with neutral := true, led := true }
          outLog := s.outLog ++ [⟨.neutral, true, s.tickCount⟩, ⟨.led, true, s.tickCount⟩]
          pstate := 2
          phaseTimer := 0
          phase := .dispatch (i + 1) }) ∧
    (s.pstate = 4 →
      microSteps 4 s = .next
        { s with
          edge := !s.env.buttonRaw && !s.prevPressed
          prevPressed := !s.env.buttonRaw
          out := { s.out with speaker := true, led := true }
          outLog := s.outLog ++ [⟨.led, true, s.tickCount⟩, ⟨.speaker, true, s.tickCount⟩]
          pstate := if (!s.env.buttonRaw && !s.prevPressed) = true then 5 else 4
          phaseTimer := if (!s.env.buttonRaw && !s.prevPressed) = true then 0 else s.phaseTimer
          phase := .dispatch (i + 1) })

/-- R161, R167, R156, R158: LIVE_VIA_RESISTOR energizes the resistor relay and blinks, SHUTDOWN_BLINK blinks, and
each leaves when its phase timer reaches N1 or N3. -/
def Obligations.BlinkingInvocations : Prop :=
  ∀ (s : State) (i : Nat), AtMicro i 0 s → s.periphReady = true →
    (s.pstate = 2 →
      microSteps 4 s = .next
        { s with
          edge := !s.env.buttonRaw && !s.prevPressed
          prevPressed := !s.env.buttonRaw
          blink := !s.blink
          out := { s.out with liveRes := true, led := !s.blink }
          outLog := s.outLog ++ [⟨.liveRes, true, s.tickCount⟩, ⟨.led, !s.blink, s.tickCount⟩]
          pstate := if s.params.n1 ≤ (s.phaseTimer + 1) % 2 ^ s.params.phaseTimerWidth then 3 else 2
          phaseTimer := if s.params.n1 ≤ (s.phaseTimer + 1) % 2 ^ s.params.phaseTimerWidth then 0
            else (s.phaseTimer + 1) % 2 ^ s.params.phaseTimerWidth
          phase := .dispatch (i + 1) }) ∧
    (s.pstate = 8 →
      microSteps 3 s = .next
        { s with
          edge := !s.env.buttonRaw && !s.prevPressed
          prevPressed := !s.env.buttonRaw
          blink := !s.blink
          out := { s.out with led := !s.blink }
          outLog := s.outLog ++ [⟨.led, !s.blink, s.tickCount⟩]
          pstate := if s.params.n3 ≤ (s.phaseTimer + 1) % 2 ^ s.params.phaseTimerWidth then 0 else 8
          phaseTimer := if s.params.n3 ≤ (s.phaseTimer + 1) % 2 ^ s.params.phaseTimerWidth then 0
            else (s.phaseTimer + 1) % 2 ^ s.params.phaseTimerWidth
          phase := .dispatch (i + 1) })

/-- R162, R196: a SPEAKER_PRECHARGE invocation energizes the direct relay and then holds for SETTLE_MS ticks before it
releases the resistor relay (with SETTLE_MS = 0 the settle completes at once); after the hold it releases it, blinks, and
leaves when the timer reaches N2. How the invocation is cut into micro-steps is the model's reading (log entry 15). That a
SETTLE_MS of any size goes into the hold as it is, one of more than 32 bits too, is the model's choice: R8 gives it no
range (log entry 32). -/
def Obligations.PrechargeInvocation : Prop :=
  ∀ (s : State) (i : Nat), s.pstate = 3 →
    (AtMicro i 0 s → s.periphReady = true → s.params.settleMs ≠ 0 →
      microSteps 3 s = .next
        { s with
          edge := !s.env.buttonRaw && !s.prevPressed
          prevPressed := !s.env.buttonRaw
          out := { s.out with liveDirect := true }
          outLog := s.outLog ++ [⟨.liveDirect, true, s.tickCount⟩]
          delayStart := s.tickCount
          hold := .delay s.params.settleMs
          phase := .inCallback i 2 }) ∧
    (AtMicro i 0 s → s.periphReady = true → s.params.settleMs = 0 →
      microSteps 3 s = .next
        { s with
          edge := !s.env.buttonRaw && !s.prevPressed
          prevPressed := !s.env.buttonRaw
          out := { s.out with liveDirect := true }
          outLog := s.outLog ++ [⟨.liveDirect, true, s.tickCount⟩]
          delayStart := s.tickCount
          phase := .inCallback i 3 }) ∧
    (AtMicro i 3 s →
      microSteps 3 s = .next
        { s with
          blink := !s.blink
          out := { s.out with liveRes := false, led := !s.blink }
          outLog := s.outLog ++ [⟨.liveRes, false, s.tickCount⟩, ⟨.led, !s.blink, s.tickCount⟩]
          pstate := if s.params.n2 ≤ (s.phaseTimer + 1) % 2 ^ s.params.phaseTimerWidth then 4 else 3
          phaseTimer := if s.params.n2 ≤ (s.phaseTimer + 1) % 2 ^ s.params.phaseTimerWidth then 0
            else (s.phaseTimer + 1) % 2 ^ s.params.phaseTimerWidth
          phase := .dispatch (i + 1) })

/-- R164, R165, R166: SHUTDOWN_STEP_1 clears the LED and disables the speaker, SHUTDOWN_STEP_2 lights the LED and
releases the direct relay, SHUTDOWN_STEP_3 clears the LED and releases neutral; each takes one invocation, goes on
to the next state and ignores the edge. -/
def Obligations.ShutdownStepInvocations : Prop :=
  ∀ (s : State) (i : Nat), AtMicro i 0 s → s.periphReady = true →
    (s.pstate = 5 →
      microSteps 4 s = .next
        { s with
          edge := !s.env.buttonRaw && !s.prevPressed
          prevPressed := !s.env.buttonRaw
          out := { s.out with led := false, speaker := false }
          outLog := s.outLog ++ [⟨.led, false, s.tickCount⟩, ⟨.speaker, false, s.tickCount⟩]
          pstate := 6
          phaseTimer := 0
          phase := .dispatch (i + 1) }) ∧
    (s.pstate = 6 →
      microSteps 4 s = .next
        { s with
          edge := !s.env.buttonRaw && !s.prevPressed
          prevPressed := !s.env.buttonRaw
          out := { s.out with led := true, liveDirect := false }
          outLog := s.outLog ++ [⟨.led, true, s.tickCount⟩, ⟨.liveDirect, false, s.tickCount⟩]
          pstate := 7
          phaseTimer := 0
          phase := .dispatch (i + 1) }) ∧
    (s.pstate = 7 →
      microSteps 4 s = .next
        { s with
          edge := !s.env.buttonRaw && !s.prevPressed
          prevPressed := !s.env.buttonRaw
          out := { s.out with led := false, neutral := false }
          outLog := s.outLog ++ [⟨.led, false, s.tickCount⟩, ⟨.neutral, false, s.tickCount⟩]
          pstate := 8
          phaseTimer := 0
          phase := .dispatch (i + 1) })

/-- R157, R158: `tick_phase(N, p)` counts the timer, and at N goes to `p` with the timer at 0. From a timer of 0 it stays
for N - 1 invocations and goes to `p` in the N-th; N = 0 acts as N = 1, and the timer never exceeds max(N, 1). For every
N that PHASE_TIMER_WIDTH holds (R9). -/
def Obligations.TickPhaseTakesNInvocations : Prop :=
  ∀ (n : Nat) (p : PowerState) (s : State), s.phaseTimer = 0 → n < 2 ^ s.params.phaseTimerWidth →
    (∀ t : State, tickPhase n p t =
        if n ≤ (t.phaseTimer + 1) % 2 ^ t.params.phaseTimerWidth then { t with pstate := p.toBits, phaseTimer := 0 }
        else { t with phaseTimer := (t.phaseTimer + 1) % 2 ^ t.params.phaseTimerWidth }) ∧
      (∀ j, j < max n 1 → (tickPhase n p)^[j] s = { s with phaseTimer := j }) ∧
      (tickPhase n p)^[max n 1] s = { s with pstate := p.toBits, phaseTimer := 0 } ∧
      (∀ t : State, t.phaseTimer ≤ max n 1 → (tickPhase n p t).phaseTimer ≤ max n 1)

/-- R170, R151: the edge signal is 1 exactly at the first pressed sample of a run of pressed samples, so a press gives
one edge; the levels [0,0,1,1,0,1] give edges at index 2 and 5. -/
def Obligations.OneEdgePerPress : Prop :=
  (∀ (raws : List Bool) (prev : Bool) (n : Nat),
    (edges prev raws)[n]? = some true ↔
      raws[n]? = some false ∧ (if n = 0 then prev = false else raws[n - 1]? = some true)) ∧
    edges false [true, true, false, false, true, false] = [false, false, true, false, false, true]

/-- R178: no operation but PSEQ_STEP writes pstate, phase_timer, prev_pressed or blink. -/
def Obligations.SequencerRecordOwnedByPseqStep : Prop :=
  ∀ (i : Instr) (s t : State), i ≠ .pseqStep → exec i s = .next t →
    t.pstate = s.pstate ∧ t.phaseTimer = s.phaseTimer ∧ t.prevPressed = s.prevPressed ∧ t.blink = s.blink

/-! ### Output, input, delay (spec/43_io_drivers.md) -/

/-- R194, R197: SET_RELAY writes one relay latch and logs the write, for every relay and level. -/
def Obligations.SetRelayWritesAndLogs : Prop :=
  ∀ (s : State) (r : OutId) (v : Bool), s.periphReady = true → r ≠ .led →
    (AtBoot s →
      exec (.setRelay (BitVec.ofNat 8 r.number) (if v = true then 1 else 0)) s = .next
        { s with out := s.out.set r v, outLog := s.outLog ++ [⟨r, v, s.tickCount⟩], pc := s.pc + 1 }) ∧
    (∀ i k, AtMicro i k s →
      exec (.setRelay (BitVec.ofNat 8 r.number) (if v = true then 1 else 0)) s = .next
        { s with out := s.out.set r v, outLog := s.outLog ++ [⟨r, v, s.tickCount⟩],
                 phase := .inCallback i (k + 1) })

/-- R195, R197: SET_LED writes the LED latch and logs the write; the blink flag is not touched. -/
def Obligations.SetLedWritesAndLogs : Prop :=
  ∀ (s : State) (v : Bool), s.periphReady = true →
    (AtBoot s →
      exec (.setLed (if v = true then 1 else 0)) s = .next
        { s with out := { s.out with led := v }, outLog := s.outLog ++ [⟨.led, v, s.tickCount⟩],
                 pc := s.pc + 1 }) ∧
    (∀ i k, AtMicro i k s →
      exec (.setLed (if v = true then 1 else 0)) s = .next
        { s with out := { s.out with led := v }, outLog := s.outLog ++ [⟨.led, v, s.tickCount⟩],
                 phase := .inCallback i (k + 1) })

/-- R150, R191, R194, R195, R242: READ_BUTTON, SET_RELAY, SET_LED and the first micro-step of PSEQ_STEP raise NOT_READY
before PERIPH_INIT, whatever their operands; after it an id above 3 or a level above 1 raises BAD_OPERAND, and no latch is
written. -/
def Obligations.IoFaults : Prop :=
  ∀ (s : State) (id lvl : Byte), s.fault = 0 →
    (AtBoot s ∨ (∃ i k, AtMicro i k s) →
      (s.periphReady = false →
        exec .readButton s = .next { s with fault := 0x06, phase := .halted } ∧
        exec (.setRelay id lvl) s = .next { s with fault := 0x06, phase := .halted } ∧
        exec (.setLed lvl) s = .next { s with fault := 0x06, phase := .halted }) ∧
      (s.periphReady = true → 3 < id.toNat ∨ 1 < lvl.toNat →
        exec (.setRelay id lvl) s = .next { s with fault := 0x09, phase := .halted }) ∧
      (s.periphReady = true → 1 < lvl.toNat →
        exec (.setLed lvl) s = .next { s with fault := 0x09, phase := .halted })) ∧
    (∀ i, AtMicro i 0 s → s.periphReady = false →
      exec .pseqStep s = .next { s with fault := 0x06, phase := .halted })

/-- R196: DELAY_MS records the count; a duration of 0 completes at once, any other holds. What an EXTERNAL continuation
counts is the model's choice (log entry 26). -/
def Obligations.DelayMsStarts : Prop :=
  ∀ (s : State) (ms : Tick),
    (AtBoot s → exec (.delayMs ms) s = .next
      (if ms = 0 then { s with delayStart := s.tickCount, pc := s.pc + 1 }
        else { s with delayStart := s.tickCount, hold := .delay ms.toNat })) ∧
    (∀ i k, AtMicro i k s ∨ AtExternal i k s → exec (.delayMs ms) s = .next
      (if ms = 0 then { s with delayStart := s.tickCount, phase := .inCallback i (k + 1) }
        else { s with delayStart := s.tickCount, hold := .delay ms.toNat }))

/-- R196, R105: a DELAY_MS hold is lifted exactly when `(tick_count - delay_start) mod 2^TICK_WIDTH >= MS`; then the
operation completes, and until then the task context's turn changes nothing. That lifting the hold is a step of its own is
the model's reading (log entry 14), and what an EXTERNAL continuation counts its choice (log entry 26). -/
def Obligations.DelayHoldLifts : Prop :=
  ∀ (s : State) (ms : Nat), Running s → s.env.turn = .task → s.hold = .delay ms →
    (subWrap s.params.tickWidth s.tickCount s.delayStart < ms → step s = .next (drawChoices s)) ∧
    (ms ≤ subWrap s.params.tickWidth s.tickCount s.delayStart →
      (s.phase = .boot → step s = .next (drawChoices { s with hold := .none, pc := s.pc + 1 })) ∧
      (∀ i k, s.phase = .inCallback i k →
        step s = .next (drawChoices { s with hold := .none, phase := .inCallback i (k + 1) })))

/-! ### Control (spec/44_control.md) -/

/-- R210: PERIPH_INIT writes the five outputs 0 in the all-off order, readies the I/O and starts the timer. -/
def Obligations.PeriphInitClearsOutputs : Prop :=
  ∀ s : State, AtBoot s → s.irqEnabled = false →
    exec .periphInit s = .next
      { s with
        out := { neutral := false, liveRes := false, liveDirect := false, speaker := false, led := false }
        outLog := s.outLog ++ [⟨.speaker, false, s.tickCount⟩, ⟨.liveDirect, false, s.tickCount⟩,
          ⟨.liveRes, false, s.tickCount⟩, ⟨.neutral, false, s.tickCount⟩, ⟨.led, false, s.tickCount⟩]
        periphReady := true
        timerRunning := true
        pc := s.pc + 1 }

/-- R211, R212: IRQ_DISABLE and IRQ_ENABLE write the interrupt enable and nothing else but `pc`; outside the boot program
they raise WRONG_CONTEXT. -/
def Obligations.IrqEnableAndDisable : Prop :=
  ∀ s : State,
    (AtBoot s →
      exec .irqDisable s = .next { s with irqEnabled := false, pc := s.pc + 1 } ∧
      exec .irqEnable s = .next { s with irqEnabled := true, pc := s.pc + 1 }) ∧
    (s.env.turn = .task → s.phase ≠ .boot → s.fault = 0 →
      exec .irqDisable s = .next { s with fault := 0x07, phase := .halted } ∧
      exec .irqEnable s = .next { s with fault := 0x07, phase := .halted })

/-- R215: WAIT_IRQ clears `isr_seen` and holds. -/
def Obligations.WaitIrqHolds : Prop :=
  ∀ s : State, s.env.turn = .task → s.phase = .boot ∨ s.phase = .wait →
    exec .waitIrq s = .next { s with isrSeen := false, hold := .waitIrq }

/-- R215, R240: the wait ends only after an ISR has set `isr_seen`; a boot WAIT_IRQ then completes, and the main loop goes
on with the next SCHED_DISPATCH. How many steps that takes is the model's reading (log entry 14). -/
def Obligations.WaitHoldLifts : Prop :=
  ∀ s : State, Running s → s.env.turn = .task → s.hold = .waitIrq →
    (s.isrSeen = false → step s = .next (drawChoices s)) ∧
    (s.isrSeen = true → s.phase = .boot →
      step s = .next (drawChoices { s with hold := .none, pc := s.pc + 1 })) ∧
    (s.isrSeen = true → s.phase = .wait →
      step s = mapNext drawChoices (exec .schedDispatch { s with hold := .none }))

/-- R278, R264: a boot WAIT_IRQ or DELAY_MS that is reached with interrupts off never ends: every step leaves the block
as it is, but for the pending flag and the model's free choices. -/
def Obligations.HangWithInterruptsOff : Prop :=
  ∀ s t : State, s.irqEnabled = false → s.phase = .boot →
    ((s.hold = .waitIrq ∧ s.isrSeen = false) ∨ (∃ ms, s.hold = .delay ms ∧ s.delayDone ms = false)) →
    step s = .next t → t = { s with timerPending := t.timerPending, env := t.env }

/-- R213: MAIN_LOOP enters the loop with its first pass; before SCHED_INIT that pass raises NOT_READY at once, and
main_entered stays 1. That both are one step is the model's reading (log entry 11), `passIndex` its field for the loop
variable (log entry 12). -/
def Obligations.MainLoopStartsFirstPass : Prop :=
  ∀ s : State, AtBoot s →
    (s.schedReady = true → s.inDispatch = false →
      exec .mainLoop s = .next { s with mainEntered := true, inDispatch := true, passIndex := 0 }) ∧
    (s.schedReady = false → s.fault = 0 →
      exec .mainLoop s = .next { s with mainEntered := true, fault := 0x06, phase := .halted })

/-- R216: FATAL_HALT raises HALT, and the fault entry writes nothing else (R232); outside the boot program it raises
WRONG_CONTEXT. -/
def Obligations.FatalHaltRaisesHalt : Prop :=
  ∀ s : State, s.env.turn = .task → s.fault = 0 →
    exec .fatalHalt s = .next { s with fault := if s.phase = .boot then 0x0B else 0x07, phase := .halted }

/-! ### Faults and contexts (spec/60_exceptions.md) -/

/-- R243, R85, R140: an operation issued in a context outside its class raises WRONG_CONTEXT, for every operation and every
context: the boot program, a pass, callback 0, an EXTERNAL callback, the MAIN_LOOP body, the interrupt and the environment.
SCHED_DISPATCH is in no list of the task context, because its own check answers REENTRANT there (log entry 17); SCHED_TICK
in the interrupt but outside TICK_ISR is R126's check. -/
def Obligations.WrongContextOutsideClass : Prop :=
  ∀ (s : State) (i : Instr) (cb slot id lvl : Byte) (dly per name : Half) (ms : Tick), s.fault = 0 →
    ((s.env.turn = .task ∧ s.phase = .boot ∧
        i ∈ [.schedDispatchSlot slot, .schedTick, .timerFire, .tickIsr, .pseqStep]) ∨
      (s.env.turn = .task ∧ s.phase ≠ .boot ∧
        i ∈ [.schedInit, .schedAddTask cb dly per name, .periphInit, .irqDisable, .irqEnable, .mainLoop,
          .fatalHalt]) ∨
      (s.env.turn = .task ∧ (∃ j, s.phase = .dispatch j) ∧
        i ∈ [.schedTick, .timerFire, .tickIsr, .pseqStep, .waitIrq, .readButton, .setRelay id lvl, .setLed lvl,
          .getTicks, .delayMs ms]) ∨
      ((∃ j k, AtMicro j k s) ∧
        i ∈ [.schedDispatchSlot slot, .schedTick, .timerFire, .tickIsr, .waitIrq, .getTicks]) ∨
      ((∃ j k, AtExternal j k s) ∧
        i ∈ [.schedDispatchSlot slot, .schedTick, .timerFire, .tickIsr, .pseqStep, .waitIrq, .readButton,
          .setRelay id lvl, .setLed lvl]) ∨
      (s.env.turn = .task ∧ s.phase = .wait ∧
        i ∈ [.schedDispatchSlot slot, .schedTick, .timerFire, .tickIsr, .pseqStep, .readButton, .setRelay id lvl,
          .setLed lvl, .getTicks, .delayMs ms]) ∨
      (s.env.turn = .interrupt ∧ i ≠ .tickIsr ∧ (i = .schedTick → s.inIsr = false)) ∨
      (s.env.turn = .environment ∧ i ≠ .timerFire)) →
    exec i s = .next { s with fault := 0x07, phase := .halted }

/-- R47, R232: a recorded fault is sticky. No operation and no step changes the fault register once it is not NONE, and an
operation or a step (the fetch of an illegal word among them) that sets it writes a code of R231 and halts the block. -/
def Obligations.FaultRegisterSticky : Prop :=
  (∀ (i : Instr) (s t : State), exec i s = .next t →
    (s.fault ≠ 0 → t.fault = s.fault) ∧
      (t.fault ≠ s.fault → s.fault = 0 ∧ 1 ≤ t.fault.toNat ∧ t.fault.toNat ≤ 0x0B ∧ t.phase = .halted)) ∧
  (∀ s t : State, step s = .next t →
    s.fault = 0 ∧ (t.fault ≠ 0 → 1 ≤ t.fault.toNat ∧ t.fault.toNat ≤ 0x0B ∧ t.phase = .halted))

/-! ### Whole-machine rules -/

/-- R74, R20, R29, R30, R32, R34: no step writes the boot program or the parameters (log entry 1), and nothing clears periph_ready,
timer_running, main_entered or sched_ready. -/
def Obligations.ConfigurationAndReadinessKept : Prop :=
  ∀ s t : State, step s = .next t →
    t.program = s.program ∧ t.params = s.params ∧
      (s.periphReady = true → t.periphReady = true) ∧ (s.timerRunning = true → t.timerRunning = true) ∧
      (s.mainEntered = true → t.mainEntered = true) ∧ (s.schedReady = true → t.schedReady = true)

/-- R42, R66, R197: every step only adds to the output log, and the latches always hold the levels of their last
events. -/
def Obligations.LatchesFollowTheLog : Prop :=
  ∀ s t : State, LatchInv s → step s = .next t → LatchInv t ∧ s.outLog <+: t.outLog

/-- R35 to R39: the registry's invariants are kept by every step. That nothing is registered before SCHED_INIT rests on the
model's reset value (log entry 6), and the width premise on log entry 10. -/
def Obligations.RegistryInvKept : Prop := ∀ s t : State, RegistryInv s → step s = .next t → RegistryInv t

/-- R24 to R27, R31, R49, R130, R213, R232: the control state's invariants are kept by every step. They rest on the model's
readings of MAIN_LOOP's first step (log entry 11), of the pass (log entries 12, 13) and of holds (log entry 14). -/
def Obligations.ControlInvKept : Prop := ∀ s t : State, ControlInv s → step s = .next t → ControlInv t

/-- R43, R44, R234: no step writes an invalid power state, and the phase timer keeps its bound and its width. -/
def Obligations.SequencerInvKept : Prop := ∀ s t : State, SequencerInv s → step s = .next t → SequencerInv t

/-- R175, R176: the relay invariant is kept by every step, for boot programs without a SET_RELAY and a SCHED_DISPATCH
word (log entry 20). Its stages are those of the model's micro-steps (log entry 15). -/
def Obligations.RelayInvKept : Prop := ∀ s t : State, RelayInv s → step s = .next t → RelayInv t

/-- R175, R176: under the relay invariant, from PERIPH_INIT on, neutral is never released while a live relay is energized,
and on the ON path one of the live relays is always energized. -/
def Obligations.RelayInvGivesSafety : Prop :=
  ∀ s : State, RelayInv s → s.periphReady = true →
    NeutralFirst s.out ∧ (OnPath s → s.out.liveRes = true ∨ s.out.liveDirect = true)

/-- R52, R261: the invariants hold right after reset with any well-formed program loaded (the relay one, with any
program without SET_RELAY and SCHED_DISPATCH words). The registry's part rests on the model's reset values (log
entry 6). -/
def Obligations.InvariantsAtReset : Prop :=
  ∀ p : List OpWord, programWf p = true →
    RegistryInv { State.reset with program := p } ∧ ControlInv { State.reset with program := p } ∧
      SequencerInv { State.reset with program := p } ∧ LatchInv { State.reset with program := p } ∧
      ((∀ w ∈ p, (∀ id lvl, decode w ≠ some (.setRelay id lvl)) ∧ decode w ≠ some .schedDispatch) →
        RelayInv { State.reset with program := p })
end

