-- ==== Sys2Proof/Laws/State.lean ====
section
/-! SUPPORT. One lemma per field per update: what each shared state update leaves in each field. -/

namespace Sys2Proof.Laws

open Sys2Proof.Machine

@[simp] theorem raiseFault_pc (c : FaultCode) (s : State) : (raiseFault c s).pc = s.pc := rfl
@[simp] theorem raiseFault_phase (c : FaultCode) (s : State) : (raiseFault c s).phase = .halted := rfl
@[simp] theorem raiseFault_inDispatch (c : FaultCode) (s : State) : (raiseFault c s).inDispatch = s.inDispatch := rfl
@[simp] theorem raiseFault_passIndex (c : FaultCode) (s : State) : (raiseFault c s).passIndex = s.passIndex := rfl
@[simp] theorem raiseFault_inIsr (c : FaultCode) (s : State) : (raiseFault c s).inIsr = s.inIsr := rfl
@[simp] theorem raiseFault_irqEnabled (c : FaultCode) (s : State) : (raiseFault c s).irqEnabled = s.irqEnabled := rfl
@[simp] theorem raiseFault_periphReady (c : FaultCode) (s : State) : (raiseFault c s).periphReady = s.periphReady := rfl
@[simp] theorem raiseFault_mainEntered (c : FaultCode) (s : State) : (raiseFault c s).mainEntered = s.mainEntered := rfl
@[simp] theorem raiseFault_tickCount (c : FaultCode) (s : State) : (raiseFault c s).tickCount = s.tickCount := rfl
@[simp] theorem raiseFault_timerRunning (c : FaultCode) (s : State) : (raiseFault c s).timerRunning = s.timerRunning := rfl
@[simp] theorem raiseFault_timerPending (c : FaultCode) (s : State) : (raiseFault c s).timerPending = s.timerPending := rfl
@[simp] theorem raiseFault_schedReady (c : FaultCode) (s : State) : (raiseFault c s).schedReady = s.schedReady := rfl
@[simp] theorem raiseFault_taskCount (c : FaultCode) (s : State) : (raiseFault c s).taskCount = s.taskCount := rfl
@[simp] theorem raiseFault_slots (c : FaultCode) (s : State) : (raiseFault c s).slots = s.slots := rfl
@[simp] theorem raiseFault_seqRegistered (c : FaultCode) (s : State) : (raiseFault c s).seqRegistered = s.seqRegistered := rfl
@[simp] theorem raiseFault_out (c : FaultCode) (s : State) : (raiseFault c s).out = s.out := rfl
@[simp] theorem raiseFault_outLog (c : FaultCode) (s : State) : (raiseFault c s).outLog = s.outLog := rfl
@[simp] theorem raiseFault_pstate (c : FaultCode) (s : State) : (raiseFault c s).pstate = s.pstate := rfl
@[simp] theorem raiseFault_phaseTimer (c : FaultCode) (s : State) : (raiseFault c s).phaseTimer = s.phaseTimer := rfl
@[simp] theorem raiseFault_prevPressed (c : FaultCode) (s : State) : (raiseFault c s).prevPressed = s.prevPressed := rfl
@[simp] theorem raiseFault_blink (c : FaultCode) (s : State) : (raiseFault c s).blink = s.blink := rfl
@[simp] theorem raiseFault_fault (c : FaultCode) (s : State) : (raiseFault c s).fault = if s.fault = 0 then c.code else s.fault := rfl
@[simp] theorem raiseFault_isrSeen (c : FaultCode) (s : State) : (raiseFault c s).isrSeen = s.isrSeen := rfl
@[simp] theorem raiseFault_delayStart (c : FaultCode) (s : State) : (raiseFault c s).delayStart = s.delayStart := rfl
@[simp] theorem raiseFault_hold (c : FaultCode) (s : State) : (raiseFault c s).hold = s.hold := rfl
@[simp] theorem raiseFault_edge (c : FaultCode) (s : State) : (raiseFault c s).edge = s.edge := rfl
@[simp] theorem raiseFault_result (c : FaultCode) (s : State) : (raiseFault c s).result = s.result := rfl
@[simp] theorem raiseFault_env (c : FaultCode) (s : State) : (raiseFault c s).env = s.env := rfl
@[simp] theorem raiseFault_params (c : FaultCode) (s : State) : (raiseFault c s).params = s.params := rfl
@[simp] theorem raiseFault_program (c : FaultCode) (s : State) : (raiseFault c s).program = s.program := rfl

@[simp] theorem nextWord_pc (s : State) : (nextWord s).pc = s.pc + 1 := rfl
@[simp] theorem nextWord_phase (s : State) : (nextWord s).phase = s.phase := rfl
@[simp] theorem nextWord_inDispatch (s : State) : (nextWord s).inDispatch = s.inDispatch := rfl
@[simp] theorem nextWord_passIndex (s : State) : (nextWord s).passIndex = s.passIndex := rfl
@[simp] theorem nextWord_inIsr (s : State) : (nextWord s).inIsr = s.inIsr := rfl
@[simp] theorem nextWord_irqEnabled (s : State) : (nextWord s).irqEnabled = s.irqEnabled := rfl
@[simp] theorem nextWord_periphReady (s : State) : (nextWord s).periphReady = s.periphReady := rfl
@[simp] theorem nextWord_mainEntered (s : State) : (nextWord s).mainEntered = s.mainEntered := rfl
@[simp] theorem nextWord_tickCount (s : State) : (nextWord s).tickCount = s.tickCount := rfl
@[simp] theorem nextWord_timerRunning (s : State) : (nextWord s).timerRunning = s.timerRunning := rfl
@[simp] theorem nextWord_timerPending (s : State) : (nextWord s).timerPending = s.timerPending := rfl
@[simp] theorem nextWord_schedReady (s : State) : (nextWord s).schedReady = s.schedReady := rfl
@[simp] theorem nextWord_taskCount (s : State) : (nextWord s).taskCount = s.taskCount := rfl
@[simp] theorem nextWord_slots (s : State) : (nextWord s).slots = s.slots := rfl
@[simp] theorem nextWord_seqRegistered (s : State) : (nextWord s).seqRegistered = s.seqRegistered := rfl
@[simp] theorem nextWord_out (s : State) : (nextWord s).out = s.out := rfl
@[simp] theorem nextWord_outLog (s : State) : (nextWord s).outLog = s.outLog := rfl
@[simp] theorem nextWord_pstate (s : State) : (nextWord s).pstate = s.pstate := rfl
@[simp] theorem nextWord_phaseTimer (s : State) : (nextWord s).phaseTimer = s.phaseTimer := rfl
@[simp] theorem nextWord_prevPressed (s : State) : (nextWord s).prevPressed = s.prevPressed := rfl
@[simp] theorem nextWord_blink (s : State) : (nextWord s).blink = s.blink := rfl
@[simp] theorem nextWord_fault (s : State) : (nextWord s).fault = s.fault := rfl
@[simp] theorem nextWord_isrSeen (s : State) : (nextWord s).isrSeen = s.isrSeen := rfl
@[simp] theorem nextWord_delayStart (s : State) : (nextWord s).delayStart = s.delayStart := rfl
@[simp] theorem nextWord_hold (s : State) : (nextWord s).hold = s.hold := rfl
@[simp] theorem nextWord_edge (s : State) : (nextWord s).edge = s.edge := rfl
@[simp] theorem nextWord_result (s : State) : (nextWord s).result = s.result := rfl
@[simp] theorem nextWord_env (s : State) : (nextWord s).env = s.env := rfl
@[simp] theorem nextWord_params (s : State) : (nextWord s).params = s.params := rfl
@[simp] theorem nextWord_program (s : State) : (nextWord s).program = s.program := rfl

@[simp] theorem writeOutput_pc (id : OutId) (v : Bool) (s : State) : (writeOutput id v s).pc = s.pc := rfl
@[simp] theorem writeOutput_phase (id : OutId) (v : Bool) (s : State) : (writeOutput id v s).phase = s.phase := rfl
@[simp] theorem writeOutput_inDispatch (id : OutId) (v : Bool) (s : State) : (writeOutput id v s).inDispatch = s.inDispatch := rfl
@[simp] theorem writeOutput_passIndex (id : OutId) (v : Bool) (s : State) : (writeOutput id v s).passIndex = s.passIndex := rfl
@[simp] theorem writeOutput_inIsr (id : OutId) (v : Bool) (s : State) : (writeOutput id v s).inIsr = s.inIsr := rfl
@[simp] theorem writeOutput_irqEnabled (id : OutId) (v : Bool) (s : State) : (writeOutput id v s).irqEnabled = s.irqEnabled := rfl
@[simp] theorem writeOutput_periphReady (id : OutId) (v : Bool) (s : State) : (writeOutput id v s).periphReady = s.periphReady := rfl
@[simp] theorem writeOutput_mainEntered (id : OutId) (v : Bool) (s : State) : (writeOutput id v s).mainEntered = s.mainEntered := rfl
@[simp] theorem writeOutput_tickCount (id : OutId) (v : Bool) (s : State) : (writeOutput id v s).tickCount = s.tickCount := rfl
@[simp] theorem writeOutput_timerRunning (id : OutId) (v : Bool) (s : State) : (writeOutput id v s).timerRunning = s.timerRunning := rfl
@[simp] theorem writeOutput_timerPending (id : OutId) (v : Bool) (s : State) : (writeOutput id v s).timerPending = s.timerPending := rfl
@[simp] theorem writeOutput_schedReady (id : OutId) (v : Bool) (s : State) : (writeOutput id v s).schedReady = s.schedReady := rfl
@[simp] theorem writeOutput_taskCount (id : OutId) (v : Bool) (s : State) : (writeOutput id v s).taskCount = s.taskCount := rfl
@[simp] theorem writeOutput_slots (id : OutId) (v : Bool) (s : State) : (writeOutput id v s).slots = s.slots := rfl
@[simp] theorem writeOutput_seqRegistered (id : OutId) (v : Bool) (s : State) : (writeOutput id v s).seqRegistered = s.seqRegistered := rfl
@[simp] theorem writeOutput_out (id : OutId) (v : Bool) (s : State) : (writeOutput id v s).out = s.out.set id v := rfl
@[simp] theorem writeOutput_outLog (id : OutId) (v : Bool) (s : State) : (writeOutput id v s).outLog = s.outLog ++ [{ id := id, level := v, tick := s.tickCount }] := rfl
@[simp] theorem writeOutput_pstate (id : OutId) (v : Bool) (s : State) : (writeOutput id v s).pstate = s.pstate := rfl
@[simp] theorem writeOutput_phaseTimer (id : OutId) (v : Bool) (s : State) : (writeOutput id v s).phaseTimer = s.phaseTimer := rfl
@[simp] theorem writeOutput_prevPressed (id : OutId) (v : Bool) (s : State) : (writeOutput id v s).prevPressed = s.prevPressed := rfl
@[simp] theorem writeOutput_blink (id : OutId) (v : Bool) (s : State) : (writeOutput id v s).blink = s.blink := rfl
@[simp] theorem writeOutput_fault (id : OutId) (v : Bool) (s : State) : (writeOutput id v s).fault = s.fault := rfl
@[simp] theorem writeOutput_isrSeen (id : OutId) (v : Bool) (s : State) : (writeOutput id v s).isrSeen = s.isrSeen := rfl
@[simp] theorem writeOutput_delayStart (id : OutId) (v : Bool) (s : State) : (writeOutput id v s).delayStart = s.delayStart := rfl
@[simp] theorem writeOutput_hold (id : OutId) (v : Bool) (s : State) : (writeOutput id v s).hold = s.hold := rfl
@[simp] theorem writeOutput_edge (id : OutId) (v : Bool) (s : State) : (writeOutput id v s).edge = s.edge := rfl
@[simp] theorem writeOutput_result (id : OutId) (v : Bool) (s : State) : (writeOutput id v s).result = s.result := rfl
@[simp] theorem writeOutput_env (id : OutId) (v : Bool) (s : State) : (writeOutput id v s).env = s.env := rfl
@[simp] theorem writeOutput_params (id : OutId) (v : Bool) (s : State) : (writeOutput id v s).params = s.params := rfl
@[simp] theorem writeOutput_program (id : OutId) (v : Bool) (s : State) : (writeOutput id v s).program = s.program := rfl

@[simp] theorem returnFromCallback_pc (i : Nat) (s : State) : (returnFromCallback i s).pc = s.pc := rfl
@[simp] theorem returnFromCallback_phase (i : Nat) (s : State) : (returnFromCallback i s).phase = .dispatch (i + 1) := rfl
@[simp] theorem returnFromCallback_inDispatch (i : Nat) (s : State) : (returnFromCallback i s).inDispatch = s.inDispatch := rfl
@[simp] theorem returnFromCallback_passIndex (i : Nat) (s : State) : (returnFromCallback i s).passIndex = s.passIndex := rfl
@[simp] theorem returnFromCallback_inIsr (i : Nat) (s : State) : (returnFromCallback i s).inIsr = s.inIsr := rfl
@[simp] theorem returnFromCallback_irqEnabled (i : Nat) (s : State) : (returnFromCallback i s).irqEnabled = s.irqEnabled := rfl
@[simp] theorem returnFromCallback_periphReady (i : Nat) (s : State) : (returnFromCallback i s).periphReady = s.periphReady := rfl
@[simp] theorem returnFromCallback_mainEntered (i : Nat) (s : State) : (returnFromCallback i s).mainEntered = s.mainEntered := rfl
@[simp] theorem returnFromCallback_tickCount (i : Nat) (s : State) : (returnFromCallback i s).tickCount = s.tickCount := rfl
@[simp] theorem returnFromCallback_timerRunning (i : Nat) (s : State) : (returnFromCallback i s).timerRunning = s.timerRunning := rfl
@[simp] theorem returnFromCallback_timerPending (i : Nat) (s : State) : (returnFromCallback i s).timerPending = s.timerPending := rfl
@[simp] theorem returnFromCallback_schedReady (i : Nat) (s : State) : (returnFromCallback i s).schedReady = s.schedReady := rfl
@[simp] theorem returnFromCallback_taskCount (i : Nat) (s : State) : (returnFromCallback i s).taskCount = s.taskCount := rfl
@[simp] theorem returnFromCallback_slots (i : Nat) (s : State) : (returnFromCallback i s).slots = s.slots := rfl
@[simp] theorem returnFromCallback_seqRegistered (i : Nat) (s : State) : (returnFromCallback i s).seqRegistered = s.seqRegistered := rfl
@[simp] theorem returnFromCallback_out (i : Nat) (s : State) : (returnFromCallback i s).out = s.out := rfl
@[simp] theorem returnFromCallback_outLog (i : Nat) (s : State) : (returnFromCallback i s).outLog = s.outLog := rfl
@[simp] theorem returnFromCallback_pstate (i : Nat) (s : State) : (returnFromCallback i s).pstate = s.pstate := rfl
@[simp] theorem returnFromCallback_phaseTimer (i : Nat) (s : State) : (returnFromCallback i s).phaseTimer = s.phaseTimer := rfl
@[simp] theorem returnFromCallback_prevPressed (i : Nat) (s : State) : (returnFromCallback i s).prevPressed = s.prevPressed := rfl
@[simp] theorem returnFromCallback_blink (i : Nat) (s : State) : (returnFromCallback i s).blink = s.blink := rfl
@[simp] theorem returnFromCallback_fault (i : Nat) (s : State) : (returnFromCallback i s).fault = s.fault := rfl
@[simp] theorem returnFromCallback_isrSeen (i : Nat) (s : State) : (returnFromCallback i s).isrSeen = s.isrSeen := rfl
@[simp] theorem returnFromCallback_delayStart (i : Nat) (s : State) : (returnFromCallback i s).delayStart = s.delayStart := rfl
@[simp] theorem returnFromCallback_hold (i : Nat) (s : State) : (returnFromCallback i s).hold = s.hold := rfl
@[simp] theorem returnFromCallback_edge (i : Nat) (s : State) : (returnFromCallback i s).edge = s.edge := rfl
@[simp] theorem returnFromCallback_result (i : Nat) (s : State) : (returnFromCallback i s).result = s.result := rfl
@[simp] theorem returnFromCallback_env (i : Nat) (s : State) : (returnFromCallback i s).env = s.env := rfl
@[simp] theorem returnFromCallback_params (i : Nat) (s : State) : (returnFromCallback i s).params = s.params := rfl
@[simp] theorem returnFromCallback_program (i : Nat) (s : State) : (returnFromCallback i s).program = s.program := rfl

@[simp] theorem enterInterrupt_pc (s : State) : (enterInterrupt s).pc = s.pc := rfl
@[simp] theorem enterInterrupt_phase (s : State) : (enterInterrupt s).phase = s.phase := rfl
@[simp] theorem enterInterrupt_inDispatch (s : State) : (enterInterrupt s).inDispatch = s.inDispatch := rfl
@[simp] theorem enterInterrupt_passIndex (s : State) : (enterInterrupt s).passIndex = s.passIndex := rfl
@[simp] theorem enterInterrupt_inIsr (s : State) : (enterInterrupt s).inIsr = true := rfl
@[simp] theorem enterInterrupt_irqEnabled (s : State) : (enterInterrupt s).irqEnabled = s.irqEnabled := rfl
@[simp] theorem enterInterrupt_periphReady (s : State) : (enterInterrupt s).periphReady = s.periphReady := rfl
@[simp] theorem enterInterrupt_mainEntered (s : State) : (enterInterrupt s).mainEntered = s.mainEntered := rfl
@[simp] theorem enterInterrupt_tickCount (s : State) : (enterInterrupt s).tickCount = s.tickCount := rfl
@[simp] theorem enterInterrupt_timerRunning (s : State) : (enterInterrupt s).timerRunning = s.timerRunning := rfl
@[simp] theorem enterInterrupt_timerPending (s : State) : (enterInterrupt s).timerPending = s.timerPending := rfl
@[simp] theorem enterInterrupt_schedReady (s : State) : (enterInterrupt s).schedReady = s.schedReady := rfl
@[simp] theorem enterInterrupt_taskCount (s : State) : (enterInterrupt s).taskCount = s.taskCount := rfl
@[simp] theorem enterInterrupt_slots (s : State) : (enterInterrupt s).slots = s.slots := rfl
@[simp] theorem enterInterrupt_seqRegistered (s : State) : (enterInterrupt s).seqRegistered = s.seqRegistered := rfl
@[simp] theorem enterInterrupt_out (s : State) : (enterInterrupt s).out = s.out := rfl
@[simp] theorem enterInterrupt_outLog (s : State) : (enterInterrupt s).outLog = s.outLog := rfl
@[simp] theorem enterInterrupt_pstate (s : State) : (enterInterrupt s).pstate = s.pstate := rfl
@[simp] theorem enterInterrupt_phaseTimer (s : State) : (enterInterrupt s).phaseTimer = s.phaseTimer := rfl
@[simp] theorem enterInterrupt_prevPressed (s : State) : (enterInterrupt s).prevPressed = s.prevPressed := rfl
@[simp] theorem enterInterrupt_blink (s : State) : (enterInterrupt s).blink = s.blink := rfl
@[simp] theorem enterInterrupt_fault (s : State) : (enterInterrupt s).fault = s.fault := rfl
@[simp] theorem enterInterrupt_isrSeen (s : State) : (enterInterrupt s).isrSeen = s.isrSeen := rfl
@[simp] theorem enterInterrupt_delayStart (s : State) : (enterInterrupt s).delayStart = s.delayStart := rfl
@[simp] theorem enterInterrupt_hold (s : State) : (enterInterrupt s).hold = s.hold := rfl
@[simp] theorem enterInterrupt_edge (s : State) : (enterInterrupt s).edge = s.edge := rfl
@[simp] theorem enterInterrupt_result (s : State) : (enterInterrupt s).result = s.result := rfl
@[simp] theorem enterInterrupt_env (s : State) : (enterInterrupt s).env = s.env := rfl
@[simp] theorem enterInterrupt_params (s : State) : (enterInterrupt s).params = s.params := rfl
@[simp] theorem enterInterrupt_program (s : State) : (enterInterrupt s).program = s.program := rfl

@[simp] theorem leaveInterrupt_pc (s : State) : (leaveInterrupt s).pc = s.pc := rfl
@[simp] theorem leaveInterrupt_phase (s : State) : (leaveInterrupt s).phase = s.phase := rfl
@[simp] theorem leaveInterrupt_inDispatch (s : State) : (leaveInterrupt s).inDispatch = s.inDispatch := rfl
@[simp] theorem leaveInterrupt_passIndex (s : State) : (leaveInterrupt s).passIndex = s.passIndex := rfl
@[simp] theorem leaveInterrupt_inIsr (s : State) : (leaveInterrupt s).inIsr = false := rfl
@[simp] theorem leaveInterrupt_irqEnabled (s : State) : (leaveInterrupt s).irqEnabled = s.irqEnabled := rfl
@[simp] theorem leaveInterrupt_periphReady (s : State) : (leaveInterrupt s).periphReady = s.periphReady := rfl
@[simp] theorem leaveInterrupt_mainEntered (s : State) : (leaveInterrupt s).mainEntered = s.mainEntered := rfl
@[simp] theorem leaveInterrupt_tickCount (s : State) : (leaveInterrupt s).tickCount = s.tickCount := rfl
@[simp] theorem leaveInterrupt_timerRunning (s : State) : (leaveInterrupt s).timerRunning = s.timerRunning := rfl
@[simp] theorem leaveInterrupt_timerPending (s : State) : (leaveInterrupt s).timerPending = s.timerPending := rfl
@[simp] theorem leaveInterrupt_schedReady (s : State) : (leaveInterrupt s).schedReady = s.schedReady := rfl
@[simp] theorem leaveInterrupt_taskCount (s : State) : (leaveInterrupt s).taskCount = s.taskCount := rfl
@[simp] theorem leaveInterrupt_slots (s : State) : (leaveInterrupt s).slots = s.slots := rfl
@[simp] theorem leaveInterrupt_seqRegistered (s : State) : (leaveInterrupt s).seqRegistered = s.seqRegistered := rfl
@[simp] theorem leaveInterrupt_out (s : State) : (leaveInterrupt s).out = s.out := rfl
@[simp] theorem leaveInterrupt_outLog (s : State) : (leaveInterrupt s).outLog = s.outLog := rfl
@[simp] theorem leaveInterrupt_pstate (s : State) : (leaveInterrupt s).pstate = s.pstate := rfl
@[simp] theorem leaveInterrupt_phaseTimer (s : State) : (leaveInterrupt s).phaseTimer = s.phaseTimer := rfl
@[simp] theorem leaveInterrupt_prevPressed (s : State) : (leaveInterrupt s).prevPressed = s.prevPressed := rfl
@[simp] theorem leaveInterrupt_blink (s : State) : (leaveInterrupt s).blink = s.blink := rfl
@[simp] theorem leaveInterrupt_fault (s : State) : (leaveInterrupt s).fault = s.fault := rfl
@[simp] theorem leaveInterrupt_isrSeen (s : State) : (leaveInterrupt s).isrSeen = s.isrSeen := rfl
@[simp] theorem leaveInterrupt_delayStart (s : State) : (leaveInterrupt s).delayStart = s.delayStart := rfl
@[simp] theorem leaveInterrupt_hold (s : State) : (leaveInterrupt s).hold = s.hold := rfl
@[simp] theorem leaveInterrupt_edge (s : State) : (leaveInterrupt s).edge = s.edge := rfl
@[simp] theorem leaveInterrupt_result (s : State) : (leaveInterrupt s).result = s.result := rfl
@[simp] theorem leaveInterrupt_env (s : State) : (leaveInterrupt s).env = s.env := rfl
@[simp] theorem leaveInterrupt_params (s : State) : (leaveInterrupt s).params = s.params := rfl
@[simp] theorem leaveInterrupt_program (s : State) : (leaveInterrupt s).program = s.program := rfl

@[simp] theorem startWait_pc (s : State) : (startWait s).pc = s.pc := rfl
@[simp] theorem startWait_phase (s : State) : (startWait s).phase = s.phase := rfl
@[simp] theorem startWait_inDispatch (s : State) : (startWait s).inDispatch = s.inDispatch := rfl
@[simp] theorem startWait_passIndex (s : State) : (startWait s).passIndex = s.passIndex := rfl
@[simp] theorem startWait_inIsr (s : State) : (startWait s).inIsr = s.inIsr := rfl
@[simp] theorem startWait_irqEnabled (s : State) : (startWait s).irqEnabled = s.irqEnabled := rfl
@[simp] theorem startWait_periphReady (s : State) : (startWait s).periphReady = s.periphReady := rfl
@[simp] theorem startWait_mainEntered (s : State) : (startWait s).mainEntered = s.mainEntered := rfl
@[simp] theorem startWait_tickCount (s : State) : (startWait s).tickCount = s.tickCount := rfl
@[simp] theorem startWait_timerRunning (s : State) : (startWait s).timerRunning = s.timerRunning := rfl
@[simp] theorem startWait_timerPending (s : State) : (startWait s).timerPending = s.timerPending := rfl
@[simp] theorem startWait_schedReady (s : State) : (startWait s).schedReady = s.schedReady := rfl
@[simp] theorem startWait_taskCount (s : State) : (startWait s).taskCount = s.taskCount := rfl
@[simp] theorem startWait_slots (s : State) : (startWait s).slots = s.slots := rfl
@[simp] theorem startWait_seqRegistered (s : State) : (startWait s).seqRegistered = s.seqRegistered := rfl
@[simp] theorem startWait_out (s : State) : (startWait s).out = s.out := rfl
@[simp] theorem startWait_outLog (s : State) : (startWait s).outLog = s.outLog := rfl
@[simp] theorem startWait_pstate (s : State) : (startWait s).pstate = s.pstate := rfl
@[simp] theorem startWait_phaseTimer (s : State) : (startWait s).phaseTimer = s.phaseTimer := rfl
@[simp] theorem startWait_prevPressed (s : State) : (startWait s).prevPressed = s.prevPressed := rfl
@[simp] theorem startWait_blink (s : State) : (startWait s).blink = s.blink := rfl
@[simp] theorem startWait_fault (s : State) : (startWait s).fault = s.fault := rfl
@[simp] theorem startWait_isrSeen (s : State) : (startWait s).isrSeen = false := rfl
@[simp] theorem startWait_delayStart (s : State) : (startWait s).delayStart = s.delayStart := rfl
@[simp] theorem startWait_hold (s : State) : (startWait s).hold = .waitIrq := rfl
@[simp] theorem startWait_edge (s : State) : (startWait s).edge = s.edge := rfl
@[simp] theorem startWait_result (s : State) : (startWait s).result = s.result := rfl
@[simp] theorem startWait_env (s : State) : (startWait s).env = s.env := rfl
@[simp] theorem startWait_params (s : State) : (startWait s).params = s.params := rfl
@[simp] theorem startWait_program (s : State) : (startWait s).program = s.program := rfl

@[simp] theorem setSlot_pc (s : State) (i : Nat) (sl : Slot) : (s.setSlot i sl).pc = s.pc := rfl
@[simp] theorem setSlot_phase (s : State) (i : Nat) (sl : Slot) : (s.setSlot i sl).phase = s.phase := rfl
@[simp] theorem setSlot_inDispatch (s : State) (i : Nat) (sl : Slot) : (s.setSlot i sl).inDispatch = s.inDispatch := rfl
@[simp] theorem setSlot_passIndex (s : State) (i : Nat) (sl : Slot) : (s.setSlot i sl).passIndex = s.passIndex := rfl
@[simp] theorem setSlot_inIsr (s : State) (i : Nat) (sl : Slot) : (s.setSlot i sl).inIsr = s.inIsr := rfl
@[simp] theorem setSlot_irqEnabled (s : State) (i : Nat) (sl : Slot) : (s.setSlot i sl).irqEnabled = s.irqEnabled := rfl
@[simp] theorem setSlot_periphReady (s : State) (i : Nat) (sl : Slot) : (s.setSlot i sl).periphReady = s.periphReady := rfl
@[simp] theorem setSlot_mainEntered (s : State) (i : Nat) (sl : Slot) : (s.setSlot i sl).mainEntered = s.mainEntered := rfl
@[simp] theorem setSlot_tickCount (s : State) (i : Nat) (sl : Slot) : (s.setSlot i sl).tickCount = s.tickCount := rfl
@[simp] theorem setSlot_timerRunning (s : State) (i : Nat) (sl : Slot) : (s.setSlot i sl).timerRunning = s.timerRunning := rfl
@[simp] theorem setSlot_timerPending (s : State) (i : Nat) (sl : Slot) : (s.setSlot i sl).timerPending = s.timerPending := rfl
@[simp] theorem setSlot_schedReady (s : State) (i : Nat) (sl : Slot) : (s.setSlot i sl).schedReady = s.schedReady := rfl
@[simp] theorem setSlot_taskCount (s : State) (i : Nat) (sl : Slot) : (s.setSlot i sl).taskCount = s.taskCount := rfl
@[simp] theorem setSlot_slots (s : State) (i : Nat) (sl : Slot) : (s.setSlot i sl).slots = s.slots.set i sl := rfl
@[simp] theorem setSlot_seqRegistered (s : State) (i : Nat) (sl : Slot) : (s.setSlot i sl).seqRegistered = s.seqRegistered := rfl
@[simp] theorem setSlot_out (s : State) (i : Nat) (sl : Slot) : (s.setSlot i sl).out = s.out := rfl
@[simp] theorem setSlot_outLog (s : State) (i : Nat) (sl : Slot) : (s.setSlot i sl).outLog = s.outLog := rfl
@[simp] theorem setSlot_pstate (s : State) (i : Nat) (sl : Slot) : (s.setSlot i sl).pstate = s.pstate := rfl
@[simp] theorem setSlot_phaseTimer (s : State) (i : Nat) (sl : Slot) : (s.setSlot i sl).phaseTimer = s.phaseTimer := rfl
@[simp] theorem setSlot_prevPressed (s : State) (i : Nat) (sl : Slot) : (s.setSlot i sl).prevPressed = s.prevPressed := rfl
@[simp] theorem setSlot_blink (s : State) (i : Nat) (sl : Slot) : (s.setSlot i sl).blink = s.blink := rfl
@[simp] theorem setSlot_fault (s : State) (i : Nat) (sl : Slot) : (s.setSlot i sl).fault = s.fault := rfl
@[simp] theorem setSlot_isrSeen (s : State) (i : Nat) (sl : Slot) : (s.setSlot i sl).isrSeen = s.isrSeen := rfl
@[simp] theorem setSlot_delayStart (s : State) (i : Nat) (sl : Slot) : (s.setSlot i sl).delayStart = s.delayStart := rfl
@[simp] theorem setSlot_hold (s : State) (i : Nat) (sl : Slot) : (s.setSlot i sl).hold = s.hold := rfl
@[simp] theorem setSlot_edge (s : State) (i : Nat) (sl : Slot) : (s.setSlot i sl).edge = s.edge := rfl
@[simp] theorem setSlot_result (s : State) (i : Nat) (sl : Slot) : (s.setSlot i sl).result = s.result := rfl
@[simp] theorem setSlot_env (s : State) (i : Nat) (sl : Slot) : (s.setSlot i sl).env = s.env := rfl
@[simp] theorem setSlot_params (s : State) (i : Nat) (sl : Slot) : (s.setSlot i sl).params = s.params := rfl
@[simp] theorem setSlot_program (s : State) (i : Nat) (sl : Slot) : (s.setSlot i sl).program = s.program := rfl

@[simp] theorem clearDue_pc (i : Nat) (s : State) : (clearDue i s).pc = s.pc := rfl
@[simp] theorem clearDue_phase (i : Nat) (s : State) : (clearDue i s).phase = s.phase := rfl
@[simp] theorem clearDue_inDispatch (i : Nat) (s : State) : (clearDue i s).inDispatch = s.inDispatch := rfl
@[simp] theorem clearDue_passIndex (i : Nat) (s : State) : (clearDue i s).passIndex = s.passIndex := rfl
@[simp] theorem clearDue_inIsr (i : Nat) (s : State) : (clearDue i s).inIsr = s.inIsr := rfl
@[simp] theorem clearDue_irqEnabled (i : Nat) (s : State) : (clearDue i s).irqEnabled = s.irqEnabled := rfl
@[simp] theorem clearDue_periphReady (i : Nat) (s : State) : (clearDue i s).periphReady = s.periphReady := rfl
@[simp] theorem clearDue_mainEntered (i : Nat) (s : State) : (clearDue i s).mainEntered = s.mainEntered := rfl
@[simp] theorem clearDue_tickCount (i : Nat) (s : State) : (clearDue i s).tickCount = s.tickCount := rfl
@[simp] theorem clearDue_timerRunning (i : Nat) (s : State) : (clearDue i s).timerRunning = s.timerRunning := rfl
@[simp] theorem clearDue_timerPending (i : Nat) (s : State) : (clearDue i s).timerPending = s.timerPending := rfl
@[simp] theorem clearDue_schedReady (i : Nat) (s : State) : (clearDue i s).schedReady = s.schedReady := rfl
@[simp] theorem clearDue_taskCount (i : Nat) (s : State) : (clearDue i s).taskCount = s.taskCount := rfl
@[simp] theorem clearDue_slots (i : Nat) (s : State) : (clearDue i s).slots = s.slots.set i { s.slotAt i with due := false } := rfl
@[simp] theorem clearDue_seqRegistered (i : Nat) (s : State) : (clearDue i s).seqRegistered = s.seqRegistered := rfl
@[simp] theorem clearDue_out (i : Nat) (s : State) : (clearDue i s).out = s.out := rfl
@[simp] theorem clearDue_outLog (i : Nat) (s : State) : (clearDue i s).outLog = s.outLog := rfl
@[simp] theorem clearDue_pstate (i : Nat) (s : State) : (clearDue i s).pstate = s.pstate := rfl
@[simp] theorem clearDue_phaseTimer (i : Nat) (s : State) : (clearDue i s).phaseTimer = s.phaseTimer := rfl
@[simp] theorem clearDue_prevPressed (i : Nat) (s : State) : (clearDue i s).prevPressed = s.prevPressed := rfl
@[simp] theorem clearDue_blink (i : Nat) (s : State) : (clearDue i s).blink = s.blink := rfl
@[simp] theorem clearDue_fault (i : Nat) (s : State) : (clearDue i s).fault = s.fault := rfl
@[simp] theorem clearDue_isrSeen (i : Nat) (s : State) : (clearDue i s).isrSeen = s.isrSeen := rfl
@[simp] theorem clearDue_delayStart (i : Nat) (s : State) : (clearDue i s).delayStart = s.delayStart := rfl
@[simp] theorem clearDue_hold (i : Nat) (s : State) : (clearDue i s).hold = s.hold := rfl
@[simp] theorem clearDue_edge (i : Nat) (s : State) : (clearDue i s).edge = s.edge := rfl
@[simp] theorem clearDue_result (i : Nat) (s : State) : (clearDue i s).result = s.result := rfl
@[simp] theorem clearDue_env (i : Nat) (s : State) : (clearDue i s).env = s.env := rfl
@[simp] theorem clearDue_params (i : Nat) (s : State) : (clearDue i s).params = s.params := rfl
@[simp] theorem clearDue_program (i : Nat) (s : State) : (clearDue i s).program = s.program := rfl

@[simp] theorem drawChoices_pc (s : State) : (drawChoices s).pc = s.pc := rfl
@[simp] theorem drawChoices_phase (s : State) : (drawChoices s).phase = s.phase := rfl
@[simp] theorem drawChoices_inDispatch (s : State) : (drawChoices s).inDispatch = s.inDispatch := rfl
@[simp] theorem drawChoices_passIndex (s : State) : (drawChoices s).passIndex = s.passIndex := rfl
@[simp] theorem drawChoices_inIsr (s : State) : (drawChoices s).inIsr = s.inIsr := rfl
@[simp] theorem drawChoices_irqEnabled (s : State) : (drawChoices s).irqEnabled = s.irqEnabled := rfl
@[simp] theorem drawChoices_periphReady (s : State) : (drawChoices s).periphReady = s.periphReady := rfl
@[simp] theorem drawChoices_mainEntered (s : State) : (drawChoices s).mainEntered = s.mainEntered := rfl
@[simp] theorem drawChoices_tickCount (s : State) : (drawChoices s).tickCount = s.tickCount := rfl
@[simp] theorem drawChoices_timerRunning (s : State) : (drawChoices s).timerRunning = s.timerRunning := rfl
@[simp] theorem drawChoices_timerPending (s : State) : (drawChoices s).timerPending = s.timerPending := rfl
@[simp] theorem drawChoices_schedReady (s : State) : (drawChoices s).schedReady = s.schedReady := rfl
@[simp] theorem drawChoices_taskCount (s : State) : (drawChoices s).taskCount = s.taskCount := rfl
@[simp] theorem drawChoices_slots (s : State) : (drawChoices s).slots = s.slots := rfl
@[simp] theorem drawChoices_seqRegistered (s : State) : (drawChoices s).seqRegistered = s.seqRegistered := rfl
@[simp] theorem drawChoices_out (s : State) : (drawChoices s).out = s.out := rfl
@[simp] theorem drawChoices_outLog (s : State) : (drawChoices s).outLog = s.outLog := rfl
@[simp] theorem drawChoices_pstate (s : State) : (drawChoices s).pstate = s.pstate := rfl
@[simp] theorem drawChoices_phaseTimer (s : State) : (drawChoices s).phaseTimer = s.phaseTimer := rfl
@[simp] theorem drawChoices_prevPressed (s : State) : (drawChoices s).prevPressed = s.prevPressed := rfl
@[simp] theorem drawChoices_blink (s : State) : (drawChoices s).blink = s.blink := rfl
@[simp] theorem drawChoices_fault (s : State) : (drawChoices s).fault = s.fault := rfl
@[simp] theorem drawChoices_isrSeen (s : State) : (drawChoices s).isrSeen = s.isrSeen := rfl
@[simp] theorem drawChoices_delayStart (s : State) : (drawChoices s).delayStart = s.delayStart := rfl
@[simp] theorem drawChoices_hold (s : State) : (drawChoices s).hold = s.hold := rfl
@[simp] theorem drawChoices_edge (s : State) : (drawChoices s).edge = s.edge := rfl
@[simp] theorem drawChoices_result (s : State) : (drawChoices s).result = s.result := rfl
@[simp] theorem drawChoices_env (s : State) : (drawChoices s).env = 
    Environment.mk (Config.nextTurn s.env.draws) (Config.buttonLevel s.env.draws)
      (Config.externalMove s.env.draws) (s.env.draws + 1) := rfl
@[simp] theorem drawChoices_params (s : State) : (drawChoices s).params = s.params := rfl
@[simp] theorem drawChoices_program (s : State) : (drawChoices s).program = s.program := rfl

@[simp] theorem gotoState_pc (p : PowerState) (s : State) : (gotoState p s).pc = s.pc := rfl
@[simp] theorem gotoState_phase (p : PowerState) (s : State) : (gotoState p s).phase = s.phase := rfl
@[simp] theorem gotoState_inDispatch (p : PowerState) (s : State) : (gotoState p s).inDispatch = s.inDispatch := rfl
@[simp] theorem gotoState_passIndex (p : PowerState) (s : State) : (gotoState p s).passIndex = s.passIndex := rfl
@[simp] theorem gotoState_inIsr (p : PowerState) (s : State) : (gotoState p s).inIsr = s.inIsr := rfl
@[simp] theorem gotoState_irqEnabled (p : PowerState) (s : State) : (gotoState p s).irqEnabled = s.irqEnabled := rfl
@[simp] theorem gotoState_periphReady (p : PowerState) (s : State) : (gotoState p s).periphReady = s.periphReady := rfl
@[simp] theorem gotoState_mainEntered (p : PowerState) (s : State) : (gotoState p s).mainEntered = s.mainEntered := rfl
@[simp] theorem gotoState_tickCount (p : PowerState) (s : State) : (gotoState p s).tickCount = s.tickCount := rfl
@[simp] theorem gotoState_timerRunning (p : PowerState) (s : State) : (gotoState p s).timerRunning = s.timerRunning := rfl
@[simp] theorem gotoState_timerPending (p : PowerState) (s : State) : (gotoState p s).timerPending = s.timerPending := rfl
@[simp] theorem gotoState_schedReady (p : PowerState) (s : State) : (gotoState p s).schedReady = s.schedReady := rfl
@[simp] theorem gotoState_taskCount (p : PowerState) (s : State) : (gotoState p s).taskCount = s.taskCount := rfl
@[simp] theorem gotoState_slots (p : PowerState) (s : State) : (gotoState p s).slots = s.slots := rfl
@[simp] theorem gotoState_seqRegistered (p : PowerState) (s : State) : (gotoState p s).seqRegistered = s.seqRegistered := rfl
@[simp] theorem gotoState_out (p : PowerState) (s : State) : (gotoState p s).out = s.out := rfl
@[simp] theorem gotoState_outLog (p : PowerState) (s : State) : (gotoState p s).outLog = s.outLog := rfl
@[simp] theorem gotoState_pstate (p : PowerState) (s : State) : (gotoState p s).pstate = p.toBits := rfl
@[simp] theorem gotoState_phaseTimer (p : PowerState) (s : State) : (gotoState p s).phaseTimer = 0 := rfl
@[simp] theorem gotoState_prevPressed (p : PowerState) (s : State) : (gotoState p s).prevPressed = s.prevPressed := rfl
@[simp] theorem gotoState_blink (p : PowerState) (s : State) : (gotoState p s).blink = s.blink := rfl
@[simp] theorem gotoState_fault (p : PowerState) (s : State) : (gotoState p s).fault = s.fault := rfl
@[simp] theorem gotoState_isrSeen (p : PowerState) (s : State) : (gotoState p s).isrSeen = s.isrSeen := rfl
@[simp] theorem gotoState_delayStart (p : PowerState) (s : State) : (gotoState p s).delayStart = s.delayStart := rfl
@[simp] theorem gotoState_hold (p : PowerState) (s : State) : (gotoState p s).hold = s.hold := rfl
@[simp] theorem gotoState_edge (p : PowerState) (s : State) : (gotoState p s).edge = s.edge := rfl
@[simp] theorem gotoState_result (p : PowerState) (s : State) : (gotoState p s).result = s.result := rfl
@[simp] theorem gotoState_env (p : PowerState) (s : State) : (gotoState p s).env = s.env := rfl
@[simp] theorem gotoState_params (p : PowerState) (s : State) : (gotoState p s).params = s.params := rfl
@[simp] theorem gotoState_program (p : PowerState) (s : State) : (gotoState p s).program = s.program := rfl

@[simp] theorem sampleButton_pc (s : State) : (sampleButton s).pc = s.pc := rfl
@[simp] theorem sampleButton_phase (s : State) : (sampleButton s).phase = s.phase := rfl
@[simp] theorem sampleButton_inDispatch (s : State) : (sampleButton s).inDispatch = s.inDispatch := rfl
@[simp] theorem sampleButton_passIndex (s : State) : (sampleButton s).passIndex = s.passIndex := rfl
@[simp] theorem sampleButton_inIsr (s : State) : (sampleButton s).inIsr = s.inIsr := rfl
@[simp] theorem sampleButton_irqEnabled (s : State) : (sampleButton s).irqEnabled = s.irqEnabled := rfl
@[simp] theorem sampleButton_periphReady (s : State) : (sampleButton s).periphReady = s.periphReady := rfl
@[simp] theorem sampleButton_mainEntered (s : State) : (sampleButton s).mainEntered = s.mainEntered := rfl
@[simp] theorem sampleButton_tickCount (s : State) : (sampleButton s).tickCount = s.tickCount := rfl
@[simp] theorem sampleButton_timerRunning (s : State) : (sampleButton s).timerRunning = s.timerRunning := rfl
@[simp] theorem sampleButton_timerPending (s : State) : (sampleButton s).timerPending = s.timerPending := rfl
@[simp] theorem sampleButton_schedReady (s : State) : (sampleButton s).schedReady = s.schedReady := rfl
@[simp] theorem sampleButton_taskCount (s : State) : (sampleButton s).taskCount = s.taskCount := rfl
@[simp] theorem sampleButton_slots (s : State) : (sampleButton s).slots = s.slots := rfl
@[simp] theorem sampleButton_seqRegistered (s : State) : (sampleButton s).seqRegistered = s.seqRegistered := rfl
@[simp] theorem sampleButton_out (s : State) : (sampleButton s).out = s.out := rfl
@[simp] theorem sampleButton_outLog (s : State) : (sampleButton s).outLog = s.outLog := rfl
@[simp] theorem sampleButton_pstate (s : State) : (sampleButton s).pstate = s.pstate := rfl
@[simp] theorem sampleButton_phaseTimer (s : State) : (sampleButton s).phaseTimer = s.phaseTimer := rfl
@[simp] theorem sampleButton_prevPressed (s : State) : (sampleButton s).prevPressed = pressedOf s.readButton := rfl
@[simp] theorem sampleButton_blink (s : State) : (sampleButton s).blink = s.blink := rfl
@[simp] theorem sampleButton_fault (s : State) : (sampleButton s).fault = s.fault := rfl
@[simp] theorem sampleButton_isrSeen (s : State) : (sampleButton s).isrSeen = s.isrSeen := rfl
@[simp] theorem sampleButton_delayStart (s : State) : (sampleButton s).delayStart = s.delayStart := rfl
@[simp] theorem sampleButton_hold (s : State) : (sampleButton s).hold = s.hold := rfl
@[simp] theorem sampleButton_edge (s : State) : (sampleButton s).edge = edgeOf (pressedOf s.readButton) s.prevPressed := rfl
@[simp] theorem sampleButton_result (s : State) : (sampleButton s).result = s.result := rfl
@[simp] theorem sampleButton_env (s : State) : (sampleButton s).env = s.env := rfl
@[simp] theorem sampleButton_params (s : State) : (sampleButton s).params = s.params := rfl
@[simp] theorem sampleButton_program (s : State) : (sampleButton s).program = s.program := rfl

@[simp] theorem blinkLed_pc (s : State) : (blinkLed s).pc = s.pc := rfl
@[simp] theorem blinkLed_phase (s : State) : (blinkLed s).phase = s.phase := rfl
@[simp] theorem blinkLed_inDispatch (s : State) : (blinkLed s).inDispatch = s.inDispatch := rfl
@[simp] theorem blinkLed_passIndex (s : State) : (blinkLed s).passIndex = s.passIndex := rfl
@[simp] theorem blinkLed_inIsr (s : State) : (blinkLed s).inIsr = s.inIsr := rfl
@[simp] theorem blinkLed_irqEnabled (s : State) : (blinkLed s).irqEnabled = s.irqEnabled := rfl
@[simp] theorem blinkLed_periphReady (s : State) : (blinkLed s).periphReady = s.periphReady := rfl
@[simp] theorem blinkLed_mainEntered (s : State) : (blinkLed s).mainEntered = s.mainEntered := rfl
@[simp] theorem blinkLed_tickCount (s : State) : (blinkLed s).tickCount = s.tickCount := rfl
@[simp] theorem blinkLed_timerRunning (s : State) : (blinkLed s).timerRunning = s.timerRunning := rfl
@[simp] theorem blinkLed_timerPending (s : State) : (blinkLed s).timerPending = s.timerPending := rfl
@[simp] theorem blinkLed_schedReady (s : State) : (blinkLed s).schedReady = s.schedReady := rfl
@[simp] theorem blinkLed_taskCount (s : State) : (blinkLed s).taskCount = s.taskCount := rfl
@[simp] theorem blinkLed_slots (s : State) : (blinkLed s).slots = s.slots := rfl
@[simp] theorem blinkLed_seqRegistered (s : State) : (blinkLed s).seqRegistered = s.seqRegistered := rfl
@[simp] theorem blinkLed_out (s : State) : (blinkLed s).out = s.out.set .led (!s.blink) := rfl
@[simp] theorem blinkLed_outLog (s : State) : (blinkLed s).outLog = s.outLog ++ [{ id := .led, level := !s.blink, tick := s.tickCount }] := rfl
@[simp] theorem blinkLed_pstate (s : State) : (blinkLed s).pstate = s.pstate := rfl
@[simp] theorem blinkLed_phaseTimer (s : State) : (blinkLed s).phaseTimer = s.phaseTimer := rfl
@[simp] theorem blinkLed_prevPressed (s : State) : (blinkLed s).prevPressed = s.prevPressed := rfl
@[simp] theorem blinkLed_blink (s : State) : (blinkLed s).blink = !s.blink := rfl
@[simp] theorem blinkLed_fault (s : State) : (blinkLed s).fault = s.fault := rfl
@[simp] theorem blinkLed_isrSeen (s : State) : (blinkLed s).isrSeen = s.isrSeen := rfl
@[simp] theorem blinkLed_delayStart (s : State) : (blinkLed s).delayStart = s.delayStart := rfl
@[simp] theorem blinkLed_hold (s : State) : (blinkLed s).hold = s.hold := rfl
@[simp] theorem blinkLed_edge (s : State) : (blinkLed s).edge = s.edge := rfl
@[simp] theorem blinkLed_result (s : State) : (blinkLed s).result = s.result := rfl
@[simp] theorem blinkLed_env (s : State) : (blinkLed s).env = s.env := rfl
@[simp] theorem blinkLed_params (s : State) : (blinkLed s).params = s.params := rfl
@[simp] theorem blinkLed_program (s : State) : (blinkLed s).program = s.program := rfl

@[simp] theorem complete_inDispatch (s : State) : (complete s).inDispatch = s.inDispatch := by
  unfold complete; split <;> rfl
@[simp] theorem complete_passIndex (s : State) : (complete s).passIndex = s.passIndex := by
  unfold complete; split <;> rfl
@[simp] theorem complete_inIsr (s : State) : (complete s).inIsr = s.inIsr := by
  unfold complete; split <;> rfl
@[simp] theorem complete_irqEnabled (s : State) : (complete s).irqEnabled = s.irqEnabled := by
  unfold complete; split <;> rfl
@[simp] theorem complete_periphReady (s : State) : (complete s).periphReady = s.periphReady := by
  unfold complete; split <;> rfl
@[simp] theorem complete_mainEntered (s : State) : (complete s).mainEntered = s.mainEntered := by
  unfold complete; split <;> rfl
@[simp] theorem complete_tickCount (s : State) : (complete s).tickCount = s.tickCount := by
  unfold complete; split <;> rfl
@[simp] theorem complete_timerRunning (s : State) : (complete s).timerRunning = s.timerRunning := by
  unfold complete; split <;> rfl
@[simp] theorem complete_timerPending (s : State) : (complete s).timerPending = s.timerPending := by
  unfold complete; split <;> rfl
@[simp] theorem complete_schedReady (s : State) : (complete s).schedReady = s.schedReady := by
  unfold complete; split <;> rfl
@[simp] theorem complete_taskCount (s : State) : (complete s).taskCount = s.taskCount := by
  unfold complete; split <;> rfl
@[simp] theorem complete_slots (s : State) : (complete s).slots = s.slots := by
  unfold complete; split <;> rfl
@[simp] theorem complete_seqRegistered (s : State) : (complete s).seqRegistered = s.seqRegistered := by
  unfold complete; split <;> rfl
@[simp] theorem complete_out (s : State) : (complete s).out = s.out := by
  unfold complete; split <;> rfl
@[simp] theorem complete_outLog (s : State) : (complete s).outLog = s.outLog := by
  unfold complete; split <;> rfl
@[simp] theorem complete_pstate (s : State) : (complete s).pstate = s.pstate := by
  unfold complete; split <;> rfl
@[simp] theorem complete_phaseTimer (s : State) : (complete s).phaseTimer = s.phaseTimer := by
  unfold complete; split <;> rfl
@[simp] theorem complete_prevPressed (s : State) : (complete s).prevPressed = s.prevPressed := by
  unfold complete; split <;> rfl
@[simp] theorem complete_blink (s : State) : (complete s).blink = s.blink := by
  unfold complete; split <;> rfl
@[simp] theorem complete_fault (s : State) : (complete s).fault = s.fault := by
  unfold complete; split <;> rfl
@[simp] theorem complete_isrSeen (s : State) : (complete s).isrSeen = s.isrSeen := by
  unfold complete; split <;> rfl
@[simp] theorem complete_delayStart (s : State) : (complete s).delayStart = s.delayStart := by
  unfold complete; split <;> rfl
@[simp] theorem complete_hold (s : State) : (complete s).hold = s.hold := by
  unfold complete; split <;> rfl
@[simp] theorem complete_edge (s : State) : (complete s).edge = s.edge := by
  unfold complete; split <;> rfl
@[simp] theorem complete_result (s : State) : (complete s).result = s.result := by
  unfold complete; split <;> rfl
@[simp] theorem complete_env (s : State) : (complete s).env = s.env := by
  unfold complete; split <;> rfl
@[simp] theorem complete_params (s : State) : (complete s).params = s.params := by
  unfold complete; split <;> rfl
@[simp] theorem complete_program (s : State) : (complete s).program = s.program := by
  unfold complete; split <;> rfl

@[simp] theorem endHold_inDispatch (s : State) : (endHold s).inDispatch = s.inDispatch := by
  simp [endHold]
@[simp] theorem endHold_passIndex (s : State) : (endHold s).passIndex = s.passIndex := by
  simp [endHold]
@[simp] theorem endHold_inIsr (s : State) : (endHold s).inIsr = s.inIsr := by
  simp [endHold]
@[simp] theorem endHold_irqEnabled (s : State) : (endHold s).irqEnabled = s.irqEnabled := by
  simp [endHold]
@[simp] theorem endHold_periphReady (s : State) : (endHold s).periphReady = s.periphReady := by
  simp [endHold]
@[simp] theorem endHold_mainEntered (s : State) : (endHold s).mainEntered = s.mainEntered := by
  simp [endHold]
@[simp] theorem endHold_tickCount (s : State) : (endHold s).tickCount = s.tickCount := by
  simp [endHold]
@[simp] theorem endHold_timerRunning (s : State) : (endHold s).timerRunning = s.timerRunning := by
  simp [endHold]
@[simp] theorem endHold_timerPending (s : State) : (endHold s).timerPending = s.timerPending := by
  simp [endHold]
@[simp] theorem endHold_schedReady (s : State) : (endHold s).schedReady = s.schedReady := by
  simp [endHold]
@[simp] theorem endHold_taskCount (s : State) : (endHold s).taskCount = s.taskCount := by
  simp [endHold]
@[simp] theorem endHold_slots (s : State) : (endHold s).slots = s.slots := by
  simp [endHold]
@[simp] theorem endHold_seqRegistered (s : State) : (endHold s).seqRegistered = s.seqRegistered := by
  simp [endHold]
@[simp] theorem endHold_out (s : State) : (endHold s).out = s.out := by
  simp [endHold]
@[simp] theorem endHold_outLog (s : State) : (endHold s).outLog = s.outLog := by
  simp [endHold]
@[simp] theorem endHold_pstate (s : State) : (endHold s).pstate = s.pstate := by
  simp [endHold]
@[simp] theorem endHold_phaseTimer (s : State) : (endHold s).phaseTimer = s.phaseTimer := by
  simp [endHold]
@[simp] theorem endHold_prevPressed (s : State) : (endHold s).prevPressed = s.prevPressed := by
  simp [endHold]
@[simp] theorem endHold_blink (s : State) : (endHold s).blink = s.blink := by
  simp [endHold]
@[simp] theorem endHold_fault (s : State) : (endHold s).fault = s.fault := by
  simp [endHold]
@[simp] theorem endHold_isrSeen (s : State) : (endHold s).isrSeen = s.isrSeen := by
  simp [endHold]
@[simp] theorem endHold_delayStart (s : State) : (endHold s).delayStart = s.delayStart := by
  simp [endHold]
@[simp] theorem endHold_edge (s : State) : (endHold s).edge = s.edge := by
  simp [endHold]
@[simp] theorem endHold_result (s : State) : (endHold s).result = s.result := by
  simp [endHold]
@[simp] theorem endHold_env (s : State) : (endHold s).env = s.env := by
  simp [endHold]
@[simp] theorem endHold_params (s : State) : (endHold s).params = s.params := by
  simp [endHold]
@[simp] theorem endHold_program (s : State) : (endHold s).program = s.program := by
  simp [endHold]

@[simp] theorem startDelay_inDispatch (ms : Nat) (s : State) : (startDelay ms s).inDispatch = s.inDispatch := by
  simp only [startDelay]; split <;> simp
@[simp] theorem startDelay_passIndex (ms : Nat) (s : State) : (startDelay ms s).passIndex = s.passIndex := by
  simp only [startDelay]; split <;> simp
@[simp] theorem startDelay_inIsr (ms : Nat) (s : State) : (startDelay ms s).inIsr = s.inIsr := by
  simp only [startDelay]; split <;> simp
@[simp] theorem startDelay_irqEnabled (ms : Nat) (s : State) : (startDelay ms s).irqEnabled = s.irqEnabled := by
  simp only [startDelay]; split <;> simp
@[simp] theorem startDelay_periphReady (ms : Nat) (s : State) : (startDelay ms s).periphReady = s.periphReady := by
  simp only [startDelay]; split <;> simp
@[simp] theorem startDelay_mainEntered (ms : Nat) (s : State) : (startDelay ms s).mainEntered = s.mainEntered := by
  simp only [startDelay]; split <;> simp
@[simp] theorem startDelay_tickCount (ms : Nat) (s : State) : (startDelay ms s).tickCount = s.tickCount := by
  simp only [startDelay]; split <;> simp
@[simp] theorem startDelay_timerRunning (ms : Nat) (s : State) : (startDelay ms s).timerRunning = s.timerRunning := by
  simp only [startDelay]; split <;> simp
@[simp] theorem startDelay_timerPending (ms : Nat) (s : State) : (startDelay ms s).timerPending = s.timerPending := by
  simp only [startDelay]; split <;> simp
@[simp] theorem startDelay_schedReady (ms : Nat) (s : State) : (startDelay ms s).schedReady = s.schedReady := by
  simp only [startDelay]; split <;> simp
@[simp] theorem startDelay_taskCount (ms : Nat) (s : State) : (startDelay ms s).taskCount = s.taskCount := by
  simp only [startDelay]; split <;> simp
@[simp] theorem startDelay_slots (ms : Nat) (s : State) : (startDelay ms s).slots = s.slots := by
  simp only [startDelay]; split <;> simp
@[simp] theorem startDelay_seqRegistered (ms : Nat) (s : State) : (startDelay ms s).seqRegistered = s.seqRegistered := by
  simp only [startDelay]; split <;> simp
@[simp] theorem startDelay_out (ms : Nat) (s : State) : (startDelay ms s).out = s.out := by
  simp only [startDelay]; split <;> simp
@[simp] theorem startDelay_outLog (ms : Nat) (s : State) : (startDelay ms s).outLog = s.outLog := by
  simp only [startDelay]; split <;> simp
@[simp] theorem startDelay_pstate (ms : Nat) (s : State) : (startDelay ms s).pstate = s.pstate := by
  simp only [startDelay]; split <;> simp
@[simp] theorem startDelay_phaseTimer (ms : Nat) (s : State) : (startDelay ms s).phaseTimer = s.phaseTimer := by
  simp only [startDelay]; split <;> simp
@[simp] theorem startDelay_prevPressed (ms : Nat) (s : State) : (startDelay ms s).prevPressed = s.prevPressed := by
  simp only [startDelay]; split <;> simp
@[simp] theorem startDelay_blink (ms : Nat) (s : State) : (startDelay ms s).blink = s.blink := by
  simp only [startDelay]; split <;> simp
@[simp] theorem startDelay_fault (ms : Nat) (s : State) : (startDelay ms s).fault = s.fault := by
  simp only [startDelay]; split <;> simp
@[simp] theorem startDelay_isrSeen (ms : Nat) (s : State) : (startDelay ms s).isrSeen = s.isrSeen := by
  simp only [startDelay]; split <;> simp
@[simp] theorem startDelay_edge (ms : Nat) (s : State) : (startDelay ms s).edge = s.edge := by
  simp only [startDelay]; split <;> simp
@[simp] theorem startDelay_result (ms : Nat) (s : State) : (startDelay ms s).result = s.result := by
  simp only [startDelay]; split <;> simp
@[simp] theorem startDelay_env (ms : Nat) (s : State) : (startDelay ms s).env = s.env := by
  simp only [startDelay]; split <;> simp
@[simp] theorem startDelay_params (ms : Nat) (s : State) : (startDelay ms s).params = s.params := by
  simp only [startDelay]; split <;> simp
@[simp] theorem startDelay_program (ms : Nat) (s : State) : (startDelay ms s).program = s.program := by
  simp only [startDelay]; split <;> simp

@[simp] theorem endPass_passIndex (s : State) : (endPass s).passIndex = s.passIndex := by
  simp only [endPass]; split <;> simp
@[simp] theorem endPass_inIsr (s : State) : (endPass s).inIsr = s.inIsr := by
  simp only [endPass]; split <;> simp
@[simp] theorem endPass_irqEnabled (s : State) : (endPass s).irqEnabled = s.irqEnabled := by
  simp only [endPass]; split <;> simp
@[simp] theorem endPass_periphReady (s : State) : (endPass s).periphReady = s.periphReady := by
  simp only [endPass]; split <;> simp
@[simp] theorem endPass_mainEntered (s : State) : (endPass s).mainEntered = s.mainEntered := by
  simp only [endPass]; split <;> simp
@[simp] theorem endPass_tickCount (s : State) : (endPass s).tickCount = s.tickCount := by
  simp only [endPass]; split <;> simp
@[simp] theorem endPass_timerRunning (s : State) : (endPass s).timerRunning = s.timerRunning := by
  simp only [endPass]; split <;> simp
@[simp] theorem endPass_timerPending (s : State) : (endPass s).timerPending = s.timerPending := by
  simp only [endPass]; split <;> simp
@[simp] theorem endPass_schedReady (s : State) : (endPass s).schedReady = s.schedReady := by
  simp only [endPass]; split <;> simp
@[simp] theorem endPass_taskCount (s : State) : (endPass s).taskCount = s.taskCount := by
  simp only [endPass]; split <;> simp
@[simp] theorem endPass_slots (s : State) : (endPass s).slots = s.slots := by
  simp only [endPass]; split <;> simp
@[simp] theorem endPass_seqRegistered (s : State) : (endPass s).seqRegistered = s.seqRegistered := by
  simp only [endPass]; split <;> simp
@[simp] theorem endPass_out (s : State) : (endPass s).out = s.out := by
  simp only [endPass]; split <;> simp
@[simp] theorem endPass_outLog (s : State) : (endPass s).outLog = s.outLog := by
  simp only [endPass]; split <;> simp
@[simp] theorem endPass_pstate (s : State) : (endPass s).pstate = s.pstate := by
  simp only [endPass]; split <;> simp
@[simp] theorem endPass_phaseTimer (s : State) : (endPass s).phaseTimer = s.phaseTimer := by
  simp only [endPass]; split <;> simp
@[simp] theorem endPass_prevPressed (s : State) : (endPass s).prevPressed = s.prevPressed := by
  simp only [endPass]; split <;> simp
@[simp] theorem endPass_blink (s : State) : (endPass s).blink = s.blink := by
  simp only [endPass]; split <;> simp
@[simp] theorem endPass_fault (s : State) : (endPass s).fault = s.fault := by
  simp only [endPass]; split <;> simp
@[simp] theorem endPass_isrSeen (s : State) : (endPass s).isrSeen = s.isrSeen := by
  simp only [endPass]; split <;> simp
@[simp] theorem endPass_delayStart (s : State) : (endPass s).delayStart = s.delayStart := by
  simp only [endPass]; split <;> simp
@[simp] theorem endPass_hold (s : State) : (endPass s).hold = s.hold := by
  simp only [endPass]; split <;> simp
@[simp] theorem endPass_edge (s : State) : (endPass s).edge = s.edge := by
  simp only [endPass]; split <;> simp
@[simp] theorem endPass_result (s : State) : (endPass s).result = s.result := by
  simp only [endPass]; split <;> simp
@[simp] theorem endPass_env (s : State) : (endPass s).env = s.env := by
  simp only [endPass]; split <;> simp
@[simp] theorem endPass_params (s : State) : (endPass s).params = s.params := by
  simp only [endPass]; split <;> simp
@[simp] theorem endPass_program (s : State) : (endPass s).program = s.program := by
  simp only [endPass]; split <;> simp

@[simp] theorem tickPhase_pc (n : Nat) (p : PowerState) (s : State) : (tickPhase n p s).pc = s.pc := by
  simp only [tickPhase]; split <;> rfl
@[simp] theorem tickPhase_phase (n : Nat) (p : PowerState) (s : State) : (tickPhase n p s).phase = s.phase := by
  simp only [tickPhase]; split <;> rfl
@[simp] theorem tickPhase_inDispatch (n : Nat) (p : PowerState) (s : State) : (tickPhase n p s).inDispatch = s.inDispatch := by
  simp only [tickPhase]; split <;> rfl
@[simp] theorem tickPhase_passIndex (n : Nat) (p : PowerState) (s : State) : (tickPhase n p s).passIndex = s.passIndex := by
  simp only [tickPhase]; split <;> rfl
@[simp] theorem tickPhase_inIsr (n : Nat) (p : PowerState) (s : State) : (tickPhase n p s).inIsr = s.inIsr := by
  simp only [tickPhase]; split <;> rfl
@[simp] theorem tickPhase_irqEnabled (n : Nat) (p : PowerState) (s : State) : (tickPhase n p s).irqEnabled = s.irqEnabled := by
  simp only [tickPhase]; split <;> rfl
@[simp] theorem tickPhase_periphReady (n : Nat) (p : PowerState) (s : State) : (tickPhase n p s).periphReady = s.periphReady := by
  simp only [tickPhase]; split <;> rfl
@[simp] theorem tickPhase_mainEntered (n : Nat) (p : PowerState) (s : State) : (tickPhase n p s).mainEntered = s.mainEntered := by
  simp only [tickPhase]; split <;> rfl
@[simp] theorem tickPhase_tickCount (n : Nat) (p : PowerState) (s : State) : (tickPhase n p s).tickCount = s.tickCount := by
  simp only [tickPhase]; split <;> rfl
@[simp] theorem tickPhase_timerRunning (n : Nat) (p : PowerState) (s : State) : (tickPhase n p s).timerRunning = s.timerRunning := by
  simp only [tickPhase]; split <;> rfl
@[simp] theorem tickPhase_timerPending (n : Nat) (p : PowerState) (s : State) : (tickPhase n p s).timerPending = s.timerPending := by
  simp only [tickPhase]; split <;> rfl
@[simp] theorem tickPhase_schedReady (n : Nat) (p : PowerState) (s : State) : (tickPhase n p s).schedReady = s.schedReady := by
  simp only [tickPhase]; split <;> rfl
@[simp] theorem tickPhase_taskCount (n : Nat) (p : PowerState) (s : State) : (tickPhase n p s).taskCount = s.taskCount := by
  simp only [tickPhase]; split <;> rfl
@[simp] theorem tickPhase_slots (n : Nat) (p : PowerState) (s : State) : (tickPhase n p s).slots = s.slots := by
  simp only [tickPhase]; split <;> rfl
@[simp] theorem tickPhase_seqRegistered (n : Nat) (p : PowerState) (s : State) : (tickPhase n p s).seqRegistered = s.seqRegistered := by
  simp only [tickPhase]; split <;> rfl
@[simp] theorem tickPhase_out (n : Nat) (p : PowerState) (s : State) : (tickPhase n p s).out = s.out := by
  simp only [tickPhase]; split <;> rfl
@[simp] theorem tickPhase_outLog (n : Nat) (p : PowerState) (s : State) : (tickPhase n p s).outLog = s.outLog := by
  simp only [tickPhase]; split <;> rfl
@[simp] theorem tickPhase_prevPressed (n : Nat) (p : PowerState) (s : State) : (tickPhase n p s).prevPressed = s.prevPressed := by
  simp only [tickPhase]; split <;> rfl
@[simp] theorem tickPhase_blink (n : Nat) (p : PowerState) (s : State) : (tickPhase n p s).blink = s.blink := by
  simp only [tickPhase]; split <;> rfl
@[simp] theorem tickPhase_fault (n : Nat) (p : PowerState) (s : State) : (tickPhase n p s).fault = s.fault := by
  simp only [tickPhase]; split <;> rfl
@[simp] theorem tickPhase_isrSeen (n : Nat) (p : PowerState) (s : State) : (tickPhase n p s).isrSeen = s.isrSeen := by
  simp only [tickPhase]; split <;> rfl
@[simp] theorem tickPhase_delayStart (n : Nat) (p : PowerState) (s : State) : (tickPhase n p s).delayStart = s.delayStart := by
  simp only [tickPhase]; split <;> rfl
@[simp] theorem tickPhase_hold (n : Nat) (p : PowerState) (s : State) : (tickPhase n p s).hold = s.hold := by
  simp only [tickPhase]; split <;> rfl
@[simp] theorem tickPhase_edge (n : Nat) (p : PowerState) (s : State) : (tickPhase n p s).edge = s.edge := by
  simp only [tickPhase]; split <;> rfl
@[simp] theorem tickPhase_result (n : Nat) (p : PowerState) (s : State) : (tickPhase n p s).result = s.result := by
  simp only [tickPhase]; split <;> rfl
@[simp] theorem tickPhase_env (n : Nat) (p : PowerState) (s : State) : (tickPhase n p s).env = s.env := by
  simp only [tickPhase]; split <;> rfl
@[simp] theorem tickPhase_params (n : Nat) (p : PowerState) (s : State) : (tickPhase n p s).params = s.params := by
  simp only [tickPhase]; split <;> rfl
@[simp] theorem tickPhase_program (n : Nat) (p : PowerState) (s : State) : (tickPhase n p s).program = s.program := by
  simp only [tickPhase]; split <;> rfl

@[simp] theorem applyTransition_pc (t : Transition) (s : State) : (applyTransition t s).pc = s.pc := by
  cases t with
  | goto _ => rfl
  | gotoIfEdge _ => simp only [applyTransition]; split <;> rfl
  | tickPhase n p => exact tickPhase_pc n p s
@[simp] theorem applyTransition_phase (t : Transition) (s : State) : (applyTransition t s).phase = s.phase := by
  cases t with
  | goto _ => rfl
  | gotoIfEdge _ => simp only [applyTransition]; split <;> rfl
  | tickPhase n p => exact tickPhase_phase n p s
@[simp] theorem applyTransition_inDispatch (t : Transition) (s : State) : (applyTransition t s).inDispatch = s.inDispatch := by
  cases t with
  | goto _ => rfl
  | gotoIfEdge _ => simp only [applyTransition]; split <;> rfl
  | tickPhase n p => exact tickPhase_inDispatch n p s
@[simp] theorem applyTransition_passIndex (t : Transition) (s : State) : (applyTransition t s).passIndex = s.passIndex := by
  cases t with
  | goto _ => rfl
  | gotoIfEdge _ => simp only [applyTransition]; split <;> rfl
  | tickPhase n p => exact tickPhase_passIndex n p s
@[simp] theorem applyTransition_inIsr (t : Transition) (s : State) : (applyTransition t s).inIsr = s.inIsr := by
  cases t with
  | goto _ => rfl
  | gotoIfEdge _ => simp only [applyTransition]; split <;> rfl
  | tickPhase n p => exact tickPhase_inIsr n p s
@[simp] theorem applyTransition_irqEnabled (t : Transition) (s : State) : (applyTransition t s).irqEnabled = s.irqEnabled := by
  cases t with
  | goto _ => rfl
  | gotoIfEdge _ => simp only [applyTransition]; split <;> rfl
  | tickPhase n p => exact tickPhase_irqEnabled n p s
@[simp] theorem applyTransition_periphReady (t : Transition) (s : State) : (applyTransition t s).periphReady = s.periphReady := by
  cases t with
  | goto _ => rfl
  | gotoIfEdge _ => simp only [applyTransition]; split <;> rfl
  | tickPhase n p => exact tickPhase_periphReady n p s
@[simp] theorem applyTransition_mainEntered (t : Transition) (s : State) : (applyTransition t s).mainEntered = s.mainEntered := by
  cases t with
  | goto _ => rfl
  | gotoIfEdge _ => simp only [applyTransition]; split <;> rfl
  | tickPhase n p => exact tickPhase_mainEntered n p s
@[simp] theorem applyTransition_tickCount (t : Transition) (s : State) : (applyTransition t s).tickCount = s.tickCount := by
  cases t with
  | goto _ => rfl
  | gotoIfEdge _ => simp only [applyTransition]; split <;> rfl
  | tickPhase n p => exact tickPhase_tickCount n p s
@[simp] theorem applyTransition_timerRunning (t : Transition) (s : State) : (applyTransition t s).timerRunning = s.timerRunning := by
  cases t with
  | goto _ => rfl
  | gotoIfEdge _ => simp only [applyTransition]; split <;> rfl
  | tickPhase n p => exact tickPhase_timerRunning n p s
@[simp] theorem applyTransition_timerPending (t : Transition) (s : State) : (applyTransition t s).timerPending = s.timerPending := by
  cases t with
  | goto _ => rfl
  | gotoIfEdge _ => simp only [applyTransition]; split <;> rfl
  | tickPhase n p => exact tickPhase_timerPending n p s
@[simp] theorem applyTransition_schedReady (t : Transition) (s : State) : (applyTransition t s).schedReady = s.schedReady := by
  cases t with
  | goto _ => rfl
  | gotoIfEdge _ => simp only [applyTransition]; split <;> rfl
  | tickPhase n p => exact tickPhase_schedReady n p s
@[simp] theorem applyTransition_taskCount (t : Transition) (s : State) : (applyTransition t s).taskCount = s.taskCount := by
  cases t with
  | goto _ => rfl
  | gotoIfEdge _ => simp only [applyTransition]; split <;> rfl
  | tickPhase n p => exact tickPhase_taskCount n p s
@[simp] theorem applyTransition_slots (t : Transition) (s : State) : (applyTransition t s).slots = s.slots := by
  cases t with
  | goto _ => rfl
  | gotoIfEdge _ => simp only [applyTransition]; split <;> rfl
  | tickPhase n p => exact tickPhase_slots n p s
@[simp] theorem applyTransition_seqRegistered (t : Transition) (s : State) : (applyTransition t s).seqRegistered = s.seqRegistered := by
  cases t with
  | goto _ => rfl
  | gotoIfEdge _ => simp only [applyTransition]; split <;> rfl
  | tickPhase n p => exact tickPhase_seqRegistered n p s
@[simp] theorem applyTransition_out (t : Transition) (s : State) : (applyTransition t s).out = s.out := by
  cases t with
  | goto _ => rfl
  | gotoIfEdge _ => simp only [applyTransition]; split <;> rfl
  | tickPhase n p => exact tickPhase_out n p s
@[simp] theorem applyTransition_outLog (t : Transition) (s : State) : (applyTransition t s).outLog = s.outLog := by
  cases t with
  | goto _ => rfl
  | gotoIfEdge _ => simp only [applyTransition]; split <;> rfl
  | tickPhase n p => exact tickPhase_outLog n p s
@[simp] theorem applyTransition_prevPressed (t : Transition) (s : State) : (applyTransition t s).prevPressed = s.prevPressed := by
  cases t with
  | goto _ => rfl
  | gotoIfEdge _ => simp only [applyTransition]; split <;> rfl
  | tickPhase n p => exact tickPhase_prevPressed n p s
@[simp] theorem applyTransition_blink (t : Transition) (s : State) : (applyTransition t s).blink = s.blink := by
  cases t with
  | goto _ => rfl
  | gotoIfEdge _ => simp only [applyTransition]; split <;> rfl
  | tickPhase n p => exact tickPhase_blink n p s
@[simp] theorem applyTransition_fault (t : Transition) (s : State) : (applyTransition t s).fault = s.fault := by
  cases t with
  | goto _ => rfl
  | gotoIfEdge _ => simp only [applyTransition]; split <;> rfl
  | tickPhase n p => exact tickPhase_fault n p s
@[simp] theorem applyTransition_isrSeen (t : Transition) (s : State) : (applyTransition t s).isrSeen = s.isrSeen := by
  cases t with
  | goto _ => rfl
  | gotoIfEdge _ => simp only [applyTransition]; split <;> rfl
  | tickPhase n p => exact tickPhase_isrSeen n p s
@[simp] theorem applyTransition_delayStart (t : Transition) (s : State) : (applyTransition t s).delayStart = s.delayStart := by
  cases t with
  | goto _ => rfl
  | gotoIfEdge _ => simp only [applyTransition]; split <;> rfl
  | tickPhase n p => exact tickPhase_delayStart n p s
@[simp] theorem applyTransition_hold (t : Transition) (s : State) : (applyTransition t s).hold = s.hold := by
  cases t with
  | goto _ => rfl
  | gotoIfEdge _ => simp only [applyTransition]; split <;> rfl
  | tickPhase n p => exact tickPhase_hold n p s
@[simp] theorem applyTransition_edge (t : Transition) (s : State) : (applyTransition t s).edge = s.edge := by
  cases t with
  | goto _ => rfl
  | gotoIfEdge _ => simp only [applyTransition]; split <;> rfl
  | tickPhase n p => exact tickPhase_edge n p s
@[simp] theorem applyTransition_result (t : Transition) (s : State) : (applyTransition t s).result = s.result := by
  cases t with
  | goto _ => rfl
  | gotoIfEdge _ => simp only [applyTransition]; split <;> rfl
  | tickPhase n p => exact tickPhase_result n p s
@[simp] theorem applyTransition_env (t : Transition) (s : State) : (applyTransition t s).env = s.env := by
  cases t with
  | goto _ => rfl
  | gotoIfEdge _ => simp only [applyTransition]; split <;> rfl
  | tickPhase n p => exact tickPhase_env n p s
@[simp] theorem applyTransition_params (t : Transition) (s : State) : (applyTransition t s).params = s.params := by
  cases t with
  | goto _ => rfl
  | gotoIfEdge _ => simp only [applyTransition]; split <;> rfl
  | tickPhase n p => exact tickPhase_params n p s
@[simp] theorem applyTransition_program (t : Transition) (s : State) : (applyTransition t s).program = s.program := by
  cases t with
  | goto _ => rfl
  | gotoIfEdge _ => simp only [applyTransition]; split <;> rfl
  | tickPhase n p => exact tickPhase_program n p s

@[simp] theorem clearOutputs_pc (ids : List OutId) (s : State) : (clearOutputs ids s).pc = s.pc := by
  induction ids generalizing s with
  | nil => rfl
  | cons id ids ih => exact ih (writeOutput id false s)
@[simp] theorem clearOutputs_phase (ids : List OutId) (s : State) : (clearOutputs ids s).phase = s.phase := by
  induction ids generalizing s with
  | nil => rfl
  | cons id ids ih => exact ih (writeOutput id false s)
@[simp] theorem clearOutputs_inDispatch (ids : List OutId) (s : State) : (clearOutputs ids s).inDispatch = s.inDispatch := by
  induction ids generalizing s with
  | nil => rfl
  | cons id ids ih => exact ih (writeOutput id false s)
@[simp] theorem clearOutputs_passIndex (ids : List OutId) (s : State) : (clearOutputs ids s).passIndex = s.passIndex := by
  induction ids generalizing s with
  | nil => rfl
  | cons id ids ih => exact ih (writeOutput id false s)
@[simp] theorem clearOutputs_inIsr (ids : List OutId) (s : State) : (clearOutputs ids s).inIsr = s.inIsr := by
  induction ids generalizing s with
  | nil => rfl
  | cons id ids ih => exact ih (writeOutput id false s)
@[simp] theorem clearOutputs_irqEnabled (ids : List OutId) (s : State) : (clearOutputs ids s).irqEnabled = s.irqEnabled := by
  induction ids generalizing s with
  | nil => rfl
  | cons id ids ih => exact ih (writeOutput id false s)
@[simp] theorem clearOutputs_periphReady (ids : List OutId) (s : State) : (clearOutputs ids s).periphReady = s.periphReady := by
  induction ids generalizing s with
  | nil => rfl
  | cons id ids ih => exact ih (writeOutput id false s)
@[simp] theorem clearOutputs_mainEntered (ids : List OutId) (s : State) : (clearOutputs ids s).mainEntered = s.mainEntered := by
  induction ids generalizing s with
  | nil => rfl
  | cons id ids ih => exact ih (writeOutput id false s)
@[simp] theorem clearOutputs_tickCount (ids : List OutId) (s : State) : (clearOutputs ids s).tickCount = s.tickCount := by
  induction ids generalizing s with
  | nil => rfl
  | cons id ids ih => exact ih (writeOutput id false s)
@[simp] theorem clearOutputs_timerRunning (ids : List OutId) (s : State) : (clearOutputs ids s).timerRunning = s.timerRunning := by
  induction ids generalizing s with
  | nil => rfl
  | cons id ids ih => exact ih (writeOutput id false s)
@[simp] theorem clearOutputs_timerPending (ids : List OutId) (s : State) : (clearOutputs ids s).timerPending = s.timerPending := by
  induction ids generalizing s with
  | nil => rfl
  | cons id ids ih => exact ih (writeOutput id false s)
@[simp] theorem clearOutputs_schedReady (ids : List OutId) (s : State) : (clearOutputs ids s).schedReady = s.schedReady := by
  induction ids generalizing s with
  | nil => rfl
  | cons id ids ih => exact ih (writeOutput id false s)
@[simp] theorem clearOutputs_taskCount (ids : List OutId) (s : State) : (clearOutputs ids s).taskCount = s.taskCount := by
  induction ids generalizing s with
  | nil => rfl
  | cons id ids ih => exact ih (writeOutput id false s)
@[simp] theorem clearOutputs_slots (ids : List OutId) (s : State) : (clearOutputs ids s).slots = s.slots := by
  induction ids generalizing s with
  | nil => rfl
  | cons id ids ih => exact ih (writeOutput id false s)
@[simp] theorem clearOutputs_seqRegistered (ids : List OutId) (s : State) : (clearOutputs ids s).seqRegistered = s.seqRegistered := by
  induction ids generalizing s with
  | nil => rfl
  | cons id ids ih => exact ih (writeOutput id false s)
@[simp] theorem clearOutputs_pstate (ids : List OutId) (s : State) : (clearOutputs ids s).pstate = s.pstate := by
  induction ids generalizing s with
  | nil => rfl
  | cons id ids ih => exact ih (writeOutput id false s)
@[simp] theorem clearOutputs_phaseTimer (ids : List OutId) (s : State) : (clearOutputs ids s).phaseTimer = s.phaseTimer := by
  induction ids generalizing s with
  | nil => rfl
  | cons id ids ih => exact ih (writeOutput id false s)
@[simp] theorem clearOutputs_prevPressed (ids : List OutId) (s : State) : (clearOutputs ids s).prevPressed = s.prevPressed := by
  induction ids generalizing s with
  | nil => rfl
  | cons id ids ih => exact ih (writeOutput id false s)
@[simp] theorem clearOutputs_blink (ids : List OutId) (s : State) : (clearOutputs ids s).blink = s.blink := by
  induction ids generalizing s with
  | nil => rfl
  | cons id ids ih => exact ih (writeOutput id false s)
@[simp] theorem clearOutputs_fault (ids : List OutId) (s : State) : (clearOutputs ids s).fault = s.fault := by
  induction ids generalizing s with
  | nil => rfl
  | cons id ids ih => exact ih (writeOutput id false s)
@[simp] theorem clearOutputs_isrSeen (ids : List OutId) (s : State) : (clearOutputs ids s).isrSeen = s.isrSeen := by
  induction ids generalizing s with
  | nil => rfl
  | cons id ids ih => exact ih (writeOutput id false s)
@[simp] theorem clearOutputs_delayStart (ids : List OutId) (s : State) : (clearOutputs ids s).delayStart = s.delayStart := by
  induction ids generalizing s with
  | nil => rfl
  | cons id ids ih => exact ih (writeOutput id false s)
@[simp] theorem clearOutputs_hold (ids : List OutId) (s : State) : (clearOutputs ids s).hold = s.hold := by
  induction ids generalizing s with
  | nil => rfl
  | cons id ids ih => exact ih (writeOutput id false s)
@[simp] theorem clearOutputs_edge (ids : List OutId) (s : State) : (clearOutputs ids s).edge = s.edge := by
  induction ids generalizing s with
  | nil => rfl
  | cons id ids ih => exact ih (writeOutput id false s)
@[simp] theorem clearOutputs_result (ids : List OutId) (s : State) : (clearOutputs ids s).result = s.result := by
  induction ids generalizing s with
  | nil => rfl
  | cons id ids ih => exact ih (writeOutput id false s)
@[simp] theorem clearOutputs_env (ids : List OutId) (s : State) : (clearOutputs ids s).env = s.env := by
  induction ids generalizing s with
  | nil => rfl
  | cons id ids ih => exact ih (writeOutput id false s)
@[simp] theorem clearOutputs_params (ids : List OutId) (s : State) : (clearOutputs ids s).params = s.params := by
  induction ids generalizing s with
  | nil => rfl
  | cons id ids ih => exact ih (writeOutput id false s)
@[simp] theorem clearOutputs_program (ids : List OutId) (s : State) : (clearOutputs ids s).program = s.program := by
  induction ids generalizing s with
  | nil => rfl
  | cons id ids ih => exact ih (writeOutput id false s)

end Sys2Proof.Laws
end

