-- ==== Sys2Proof/Laws/Ops.lean ====
section
/-! SUPPORT. What each shared operation can do, said once: the checks, the fault entry, completing an operation, the
registry, the tick, the pass. -/

namespace Sys2Proof.Laws

open Sys2Proof.Machine

/-! ### Answers -/

@[simp] theorem mapNext_next (f : State → State) (s : State) : mapNext f (.next s) = .next (f s) := rfl
@[simp] theorem mapNext_fault (f : State → State) (r : Fault) : mapNext f (.fault r) = .fault r := rfl
@[simp] theorem mapNext_refused (f : State → State) (r : Refusal) : mapNext f (.refused r) = .refused r := rfl

theorem mapNext_eq_next {f : State → State} {r : Result} {t : State} :
    mapNext f r = .next t ↔ ∃ u, r = .next u ∧ t = f u := by
  cases r <;> simp [mapNext, eq_comm]

@[simp] theorem raised_eq_next {c : FaultCode} {s t : State} : raised c s = .next t ↔ t = raiseFault c s := by
  simp [raised, eq_comm]

/-! ### Checks -/

@[simp] theorem firstFault_nil : firstFault [] = none := rfl

@[simp] theorem firstFault_cons (b : Bool) (c : FaultCode) (rest : List (Bool × FaultCode)) :
    firstFault ((b, c) :: rest) = if b = true then some c else firstFault rest := rfl

/-- An operation behind checks raises the first fault whose condition holds, or runs its body. -/
theorem checked_eq_next {cs : List (Bool × FaultCode)} {s t : State} {body : Result} :
    checked cs s body = .next t ↔
      (∃ c, firstFault cs = some c ∧ t = raiseFault c s) ∨ (firstFault cs = none ∧ body = .next t) := by
  unfold checked
  cases firstFault cs <;> simp

theorem checked_of_none {cs : List (Bool × FaultCode)} {s : State} {body : Result} (h : firstFault cs = none) :
    checked cs s body = body := by simp [checked, h]

theorem checked_of_some {cs : List (Bool × FaultCode)} {s : State} {body : Result} {c : FaultCode}
    (h : firstFault cs = some c) : checked cs s body = .next (raiseFault c s) := by simp [checked, h, raised]

/-- A fault raised in a block without one records its code and halts, and changes nothing else. -/
theorem raiseFault_of_running {s : State} (c : FaultCode) (h : s.fault = 0) :
    raiseFault c s = { s with fault := c.code, phase := .halted } := by
  simp only [raiseFault, if_pos h]

/-- A fault raised in a block that holds one keeps the first. -/
theorem raiseFault_of_faulted {s : State} (c : FaultCode) (h : s.fault ≠ 0) :
    raiseFault c s = { s with phase := .halted } := by
  simp only [raiseFault, if_neg h]

/-! ### Fields of a parameter's width -/

theorem wrapTo_lt (w n : Nat) : wrapTo w n < 2 ^ w := Nat.mod_lt _ (Nat.two_pow_pos w)

theorem wrapTo_of_lt {w n : Nat} (h : n < 2 ^ w) : wrapTo w n = n := Nat.mod_eq_of_lt h

/-- A 16-bit operand written to a field that is wide enough keeps its value. -/
theorem wrapTo_half {w : Nat} (h : 16 ≤ w) (v : Half) : wrapTo w v.toNat = v.toNat :=
  wrapTo_of_lt (lt_of_lt_of_le v.isLt (Nat.pow_le_pow_right (by decide) h))

theorem subWrap_lt (w a b : Nat) : subWrap w a b < 2 ^ w := Nat.mod_lt _ (Nat.two_pow_pos w)

/-- A difference that does not wrap. -/
theorem subWrap_of_le {w a b : Nat} (hab : b ≤ a) (ha : a < 2 ^ w) : subWrap w a b = a - b := by
  have hb : b < 2 ^ w := by omega
  rw [subWrap, Nat.mod_eq_of_lt hb, show a + (2 ^ w - b) = (a - b) + 2 ^ w by omega, Nat.add_mod_right,
    Nat.mod_eq_of_lt (by omega)]

theorem subWrap_self (w a : Nat) : subWrap w a a = 0 := by
  have h : a % 2 ^ w < 2 ^ w := Nat.mod_lt _ (Nat.two_pow_pos w)
  rw [subWrap, ← Nat.mod_add_mod, show a % 2 ^ w + (2 ^ w - a % 2 ^ w) = 2 ^ w by omega, Nat.mod_self]

/-! ### Completing an operation -/

theorem complete_boot {s : State} (h : s.phase = .boot) : complete s = { s with pc := s.pc + 1 } := by
  simp [complete, h, nextWord]

theorem complete_callback {s : State} {i k : Nat} (h : s.phase = .inCallback i k) :
    complete s = { s with phase := .inCallback i (k + 1) } := by
  simp [complete, h]

/-- Completing changes nothing but `pc` and the continuation of a callback. -/
theorem complete_cases (s : State) :
    (s.phase = .boot ∧ complete s = { s with pc := s.pc + 1 }) ∨
      (∃ i k, s.phase = .inCallback i k ∧ complete s = { s with phase := .inCallback i (k + 1) }) ∨
      complete s = s := by
  unfold complete
  split <;> simp_all [nextWord]

/-- DELAY_MS's start: at once over, or a hold. -/
theorem startDelay_cases (ms : Nat) (s : State) :
    (ms = 0 ∧ startDelay ms s = complete { s with delayStart := s.tickCount }) ∨
      (ms ≠ 0 ∧ startDelay ms s = { s with delayStart := s.tickCount, hold := .delay ms }) := by
  have he : ({ s with delayStart := s.tickCount } : State).elapsed = 0 := subWrap_self _ _
  by_cases h : ms = 0
  · left; subst h; simp [startDelay, State.delayDone]
  · right; exact ⟨h, by simp [startDelay, State.delayDone, he, h]⟩

/-! ### Outputs -/

@[simp] theorem get_set (o : Outputs) (id j : OutId) (v : Bool) :
    (o.set id v).get j = if j = id then v else o.get j := by
  cases id <;> cases j <;> rfl

/-- The all-off writes: every latch 0, and one event an output, in the order of R155. -/
theorem clearOutputs_allOff (s : State) :
    clearOutputs allOffOrder s =
      { s with
        out := { neutral := false, liveRes := false, liveDirect := false, speaker := false, led := false }
        outLog := s.outLog ++ [⟨.speaker, false, s.tickCount⟩, ⟨.liveDirect, false, s.tickCount⟩,
          ⟨.liveRes, false, s.tickCount⟩, ⟨.neutral, false, s.tickCount⟩, ⟨.led, false, s.tickCount⟩] } := by
  simp [clearOutputs, allOffOrder, writeOutput, Outputs.set]

/-! ### The registry -/

/-- Reading a slot depends on the registry alone. -/
theorem slotAt_congr {s t : State} (h : t.slots = s.slots) (i : Nat) : t.slotAt i = s.slotAt i := by
  simp [State.slotAt, h]

theorem slotAt_setSlot_same {s : State} {i : Nat} (sl : Slot) (h : i < s.slots.length) :
    (s.setSlot i sl).slotAt i = sl := by
  simp [State.slotAt, h]

theorem slotAt_setSlot_ne {s : State} {i j : Nat} (sl : Slot) (h : j ≠ i) :
    (s.setSlot i sl).slotAt j = s.slotAt j := by
  simp [State.slotAt, List.getElem?_set_ne (Ne.symm h)]

/-- The slot past the end of the registry reads as an unwritten one. -/
theorem slotAt_of_length_le {s : State} {i : Nat} (h : s.slots.length ≤ i) : s.slotAt i = Slot.unwritten := by
  simp [State.slotAt, List.getElem?_eq_none h]

/-- Clearing a due flag changes that flag alone. -/
theorem slotAt_clearDue (s : State) (i j : Nat) :
    (clearDue i s).slotAt j = if j = i then { s.slotAt i with due := false } else s.slotAt j := by
  by_cases h : j = i
  · subst h
    by_cases hl : j < s.slots.length
    · simp [clearDue, slotAt_setSlot_same _ hl]
    · have hl' : s.slots.length ≤ j := by omega
      have : (clearDue j s).slots.length ≤ j := by simpa using hl'
      simp [slotAt_of_length_le hl', slotAt_of_length_le this, Slot.unwritten]
  · simp [clearDue, slotAt_setSlot_ne _ h, h]

@[simp] theorem tickSlots_length (w n : Nat) (l : List Slot) : (tickSlots w n l).length = l.length := by
  induction n generalizing l with
  | zero => rfl
  | succ n ih => cases l <;> simp [tickSlots, ih]

/-- A tick reaches the first `n` slots and no other. -/
theorem tickSlots_getElem? (w n : Nat) (l : List Slot) (i : Nat) :
    (tickSlots w n l)[i]? = if i < n then (l[i]?).map (tickSlot w) else l[i]? := by
  induction n generalizing l i with
  | zero => simp [tickSlots]
  | succ n ih =>
    cases l with
    | nil => simp [tickSlots]
    | cons sl sls =>
      cases i with
      | zero => simp [tickSlots]
      | succ i => simp [tickSlots, ih]

/-- What a tick leaves in a slot: the registered ones ticked, the others as they were. -/
theorem slotAt_tick {s t : State} {w : Nat} (h : t.slots = tickSlots w s.taskCount.toNat s.slots) (i : Nat) :
    t.slotAt i = if i < s.taskCount.toNat ∧ i < s.slots.length then tickSlot w (s.slotAt i) else s.slotAt i := by
  simp only [State.slotAt, h, tickSlots_getElem?]
  by_cases h₁ : i < s.taskCount.toNat <;> by_cases h₂ : i < s.slots.length <;> simp [h₁, h₂]

/-- A tick writes only the countdown and the due flag of a slot. -/
@[simp] theorem tickSlot_cb (w : Nat) (sl : Slot) : (tickSlot w sl).cb = sl.cb := by
  unfold tickSlot; split <;> rfl
@[simp] theorem tickSlot_name (w : Nat) (sl : Slot) : (tickSlot w sl).name = sl.name := by
  unfold tickSlot; split <;> rfl
@[simp] theorem tickSlot_initialDelay (w : Nat) (sl : Slot) : (tickSlot w sl).initialDelay = sl.initialDelay := by
  unfold tickSlot; split <;> rfl
@[simp] theorem tickSlot_period (w : Nat) (sl : Slot) : (tickSlot w sl).period = sl.period := by
  unfold tickSlot; split <;> rfl

/-- A countdown within its width counts down, and fires and reloads at 1 (R126, R39). -/
theorem tickSlot_of_countdown {w : Nat} {sl : Slot} (h₁ : 1 ≤ sl.countdown) (h₂ : sl.countdown < 2 ^ w) :
    tickSlot w sl =
      if sl.countdown = 1 then { sl with due := true, countdown := sl.period }
      else { sl with countdown := sl.countdown - 1 } := by
  simp only [tickSlot, subWrap_of_le h₁ h₂]
  by_cases h : sl.countdown = 1
  · simp [h]
  · simp [h, show ¬ sl.countdown - 1 = 0 by omega]

/-- A due flag already 1 stays 1 (R127). -/
theorem tickSlot_due_of_due {w : Nat} {sl : Slot} (h : sl.due = true) : (tickSlot w sl).due = true := by
  unfold tickSlot; split <;> simp [h]

/-- SCHED_TICK inside the ISR after SCHED_INIT ticks the registry and changes nothing else. -/
theorem schedTickOp_ok {s t : State} :
    schedTickOp s = .ok t ↔
      s.inIsr = true ∧ s.schedReady = true ∧
        t = { s with slots := tickSlots s.params.timeWidth s.taskCount.toNat s.slots } := by
  unfold schedTickOp
  cases h₁ : s.inIsr <;> cases h₂ : s.schedReady <;> simp [eq_comm]

theorem schedTickOp_error {s : State} {c : FaultCode} :
    schedTickOp s = .error c ↔
      (s.inIsr = false ∧ c = .wrongContext) ∨ (s.inIsr = true ∧ s.schedReady = false ∧ c = .notReady) := by
  unfold schedTickOp
  cases h₁ : s.inIsr <;> cases h₂ : s.schedReady <;> simp [eq_comm]

/-- The ISR counts and ticks, or raises NOT_READY before SCHED_INIT with its entry and its count kept. -/
theorem tickIsrBody_eq_next {s t : State} :
    tickIsrBody s = .next t ↔
      (s.schedReady = true ∧
        t = { s with tickCount := s.nextTick, slots := tickSlots s.params.timeWidth s.taskCount.toNat s.slots,
                     isrSeen := true, timerPending := false, inIsr := false }) ∨
      (s.schedReady = false ∧ t = raiseFault .notReady { s with inIsr := true, tickCount := s.nextTick }) := by
  cases h : s.schedReady <;>
    simp [tickIsrBody, schedTickOp, enterInterrupt, leaveInterrupt, h, raised, eq_comm]

/-! ### Passes -/

/-- A pass starts, or its checks raise NOT_READY or REENTRANT. -/
theorem startPass_eq_next {s t : State} :
    startPass s = .next t ↔
      (s.schedReady = true ∧ s.phase.isCallback = false ∧ s.inDispatch = false ∧
        t = { s with inDispatch := true, passIndex := 0 }) ∨
      (s.schedReady = false ∧ t = raiseFault .notReady s) ∨
      (s.schedReady = true ∧ (s.phase.isCallback = true ∨ s.inDispatch = true) ∧ t = raiseFault .reentrant s) := by
  unfold startPass
  rw [checked_eq_next]
  cases h₁ : s.schedReady <;> cases h₂ : s.phase.isCallback <;> cases h₃ : s.inDispatch <;> simp [eq_comm]

/-- A pass ends in WAIT when MAIN_LOOP issued it, else in the boot program after its word. -/
theorem endPass_cases (s : State) :
    (s.mainEntered = true ∧ endPass s = { s with inDispatch := false, phase := .wait }) ∨
      (s.mainEntered = false ∧ endPass s = { s with inDispatch := false, phase := .boot, pc := s.pc + 1 }) := by
  cases h : s.mainEntered <;> simp [endPass, h, nextWord]

/-! ### The sequencer -/

/-- A Power State that is not the invalid one is the state of its encoding. -/
theorem ofBits_toBits (p : PowerState) : PowerState.ofBits p.toBits = p := by cases p <;> rfl

/-- An encoding up to 8 is not invalid (R43). -/
theorem ofBits_ne_invalid_iff (v : Byte) : PowerState.ofBits v ≠ .invalid ↔ v.toNat ≤ 8 := by
  revert v; decide

end Sys2Proof.Laws
end

