-- ==== Sys2Proof/Laws/Step.lean ====
section
/-! SUPPORT. What a step can do, said once: the shell around the agents, the task context by its hold and its phase, the
main loop's wait, a micro-step of the sequencer. A proof over all steps starts here. -/

namespace Sys2Proof.Laws

open Sys2Proof.Machine Sys2Proof.Safety

/-- Two answers with a next state agree when the states do. -/
theorem next_eq_next {s t : State} : ((.next s : Result) = .next t) ↔ t = s := by
  constructor
  · rintro ⟨⟩; rfl
  · rintro rfl; rfl

/-! ### The shell -/

theorem isHalted_eq_false {s : State} : s.isHalted = false ↔ s.phase ≠ .halted ∧ s.fault = 0 := by
  simp [State.isHalted]

/-- A step that goes on runs the agent whose turn it is, in a block that runs, and then draws the next choices. -/
theorem step_eq_next {s t : State} :
    step s = .next t ↔
      programWf s.program = true ∧ s.phase ≠ .halted ∧ s.fault = 0 ∧
        ∃ u, agentStep s = .next u ∧ t = drawChoices u := by
  unfold step
  cases h₁ : programWf s.program
  · simp
  · cases h₂ : s.isHalted
    · have := isHalted_eq_false.1 h₂
      simp [mapNext_eq_next, this.1, this.2]
    · have h₃ : ¬(s.phase ≠ .halted ∧ s.fault = 0) := fun h => by
        simp [isHalted_eq_false.2 h] at h₂
      simp only [Bool.not_true, Bool.false_eq_true, if_false, if_true, reduceCtorEq, false_iff]
      rintro ⟨-, h₄, h₅, -⟩
      exact h₃ ⟨h₄, h₅⟩

theorem step_of_running {s : State} (h : Running s) : step s = mapNext drawChoices (agentStep s) := by
  have h₂ : s.isHalted = false := isHalted_eq_false.2 ⟨h.2.2, h.2.1⟩
  simp [step, h.1, h₂]

theorem agentStep_task {s : State} (h : s.env.turn = .task) : agentStep s = taskStep s := by
  simp [agentStep, h]
theorem agentStep_interrupt {s : State} (h : s.env.turn = .interrupt) : agentStep s = exec .tickIsr s := by
  simp [agentStep, h]
theorem agentStep_environment {s : State} (h : s.env.turn = .environment) :
    agentStep s = exec .timerFire s := by
  simp [agentStep, h]

/-! ### The events -/

/-- TIMER_FIRE on the environment's turn. -/
theorem timerFire_eq {s : State} (h : s.env.turn = .environment) :
    exec .timerFire s = .next (if s.fireEnabled then { s with timerPending := true } else s) := by
  simp [exec, execTimerFire, checked, wrongClass, mayIssue, State.context, h]

/-- The model's test of an interrupt point is R238's list of places. -/
theorem atInterruptPoint_iff (s : State) : s.atInterruptPoint = true ↔ InterruptPoint s := by
  cases hp : s.phase <;> cases hh : s.hold <;> cases hd : s.inDispatch <;>
    simp [State.atInterruptPoint, InterruptPoint, InPass, hp, hh, hd]

/-- TICK_ISR on the interrupt's turn: not enabled, it changes nothing; enabled, its body runs. -/
theorem tickIsr_eq_next {s t : State} (h : s.env.turn = .interrupt) :
    exec .tickIsr s = .next t ↔
      (s.isrEnabled = false ∧ t = s) ∨
      (s.isrEnabled = true ∧ s.schedReady = true ∧
        t = { s with tickCount := s.nextTick, slots := tickSlots s.params.timeWidth s.taskCount.toNat s.slots,
                     isrSeen := true, timerPending := false, inIsr := false }) ∨
      (s.isrEnabled = true ∧ s.schedReady = false ∧
        t = raiseFault .notReady { s with inIsr := true, tickCount := s.nextTick }) := by
  have h₁ : exec .tickIsr s = if s.isrEnabled then tickIsrBody s else .next s := by
    simp [exec, execTickIsr, checked, wrongClass, mayIssue, State.context, h]
  rw [h₁]
  cases s.isrEnabled
  · simp [next_eq_next, -Host.Outcome.next.injEq]
  · simp only [if_true, tickIsrBody_eq_next]
    simp

/-! ### The task context -/

/-- The task context runs its phase, lifts its hold, or has no step. -/
theorem taskStep_eq_next {s t : State} :
    taskStep s = .next t ↔
      (s.hold = .none ∧ phaseStep s = .next t) ∨
      (∃ ms, s.hold = .delay ms ∧ s.delayDone ms = true ∧ t = endHold s) ∨
      (∃ ms, s.hold = .delay ms ∧ s.delayDone ms = false ∧ t = s) ∨
      (s.hold = .waitIrq ∧ s.isrSeen = true ∧ afterWait s = .next t) ∨
      (s.hold = .waitIrq ∧ s.isrSeen = false ∧ t = s) := by
  unfold taskStep
  cases h : s.hold with
  | none => simp
  | delay ms => cases h₂ : s.delayDone ms <;> simp [h₂, next_eq_next, -Host.Outcome.next.injEq]
  | waitIrq => cases h₂ : s.isrSeen <;> simp [next_eq_next, -Host.Outcome.next.injEq]

/-- The wait is over: the main loop goes on with the next SCHED_DISPATCH, any other phase completes. -/
theorem afterWait_eq_next {s t : State} :
    afterWait s = .next t ↔
      (s.phase = .wait ∧ exec .schedDispatch { s with hold := .none } = .next t) ∨
      (s.phase ≠ .wait ∧ t = endHold s) := by
  unfold afterWait
  cases h : s.phase <;> simp [next_eq_next, -Host.Outcome.next.injEq]

/-- What the task context's step is in each phase. -/
theorem phaseStep_eq_next {s t : State} :
    phaseStep s = .next t ↔
      (s.phase = .boot ∧ s.inDispatch = false ∧ fetchStep s = .next t) ∨
      ((((s.phase = .boot ∨ s.phase = .wait) ∧ s.inDispatch = true) ∨ ∃ i, s.phase = .dispatch i) ∧
        passStep s = .next t) ∨
      (∃ i k, s.phase = .inCallback i k ∧ isSequencer (s.slotAt i).cb = true ∧ exec .pseqStep s = .next t) ∨
      (∃ i k, s.phase = .inCallback i k ∧ isSequencer (s.slotAt i).cb = false ∧ externalStep i k s = .next t) ∨
      (s.phase = .wait ∧ s.inDispatch = false ∧ exec .waitIrq s = .next t) := by
  unfold phaseStep
  cases h : s.phase with
  | boot => cases h₂ : s.inDispatch <;> simp
  | dispatch i => simp
  | inCallback i k => cases h₂ : isSequencer (s.slotAt i).cb <;> simp [h₂]
  | wait => cases h₂ : s.inDispatch <;> simp
  | halted => simp

/-- A pass writes its phase and tests its next slot, or ends. -/
theorem passStep_eq_next {s t : State} :
    passStep s = .next t ↔
      (s.passIndex < s.taskCount.toNat ∧
        exec (.schedDispatchSlot (BitVec.ofNat 8 s.passIndex))
          { s with phase := .dispatch s.passIndex, passIndex := s.passIndex + 1 } = .next t) ∨
      (s.taskCount.toNat ≤ s.passIndex ∧ t = endPass s) := by
  unfold passStep
  by_cases h : s.passIndex < s.taskCount.toNat
  · simp [h]
  · simp [h, Nat.le_of_not_lt h, next_eq_next, -Host.Outcome.next.injEq]

/-- The boot program's next word: it raises ILLEGAL_OP, or the operation it decodes to runs. -/
theorem fetchStep_eq_next {s t : State} :
    fetchStep s = .next t ↔
      ∃ w, s.fetchWord = some w ∧
        ((decode w = none ∧ t = raiseFault .illegalOp s) ∨ ∃ i, decode w = some i ∧ exec i s = .next t) := by
  unfold fetchStep
  cases h : s.fetchWord with
  | none => simp
  | some w => cases h₂ : decode w <;> simp [h₂]

/-- One step of an EXTERNAL callback: it goes on, issues GET_TICKS or DELAY_MS, or returns. -/
theorem externalStep_eq_next {s t : State} {i k : Nat} :
    externalStep i k s = .next t ↔
      (s.env.extMove = .work ∧ t = { s with phase := .inCallback i (k + 1) }) ∨
      (s.env.extMove = .getTicks ∧ exec .getTicks s = .next t) ∨
      (∃ ms, s.env.extMove = .delay ms ∧ exec (.delayMs ms) s = .next t) ∨
      (s.env.extMove = .ret ∧ t = returnFromCallback i s) := by
  unfold externalStep
  cases h : s.env.extMove <;> simp [next_eq_next, -Host.Outcome.next.injEq]

/-! ### The sequencer -/

/-- The context of an operation issued by a callback. -/
theorem context_callback {s : State} {i k : Nat} (h : s.env.turn = .task) (hp : s.phase = .inCallback i k) :
    s.context = if isSequencer (s.slotAt i).cb then .sequencer else .external := by
  simp [State.context, h, hp]

/-- The context of a boot word. -/
theorem context_boot {s : State} (h : AtBoot s) : s.context = .boot := by
  simp [State.context, h.1, h.2]

/-- A micro-step of PSEQ_STEP completes once PERIPH_INIT has run; the first one raises NOT_READY before it. -/
theorem pseqStep_eq {s : State} {i k : Nat} (h : AtMicro i k s) :
    exec .pseqStep s =
      if k = 0 ∧ s.periphReady = false then .next (raiseFault .notReady s) else .next (microStep i k s) := by
  obtain ⟨h₁, h₂, h₃⟩ := h
  have hc : s.context = .sequencer := by simp [State.context, h₁, h₂, isSequencer, h₃]
  by_cases hk : k = 0 <;> cases hp : s.periphReady <;>
    simp [exec, execPseqStep, checked, wrongClass, mayIssue, raised, h₂, hc, hk, hp]

/-! ### Interrupts at the boundaries that R238 does not list (log entry 31): none is lost by leaving them out -/

/-- What a completed ISR body leaves. -/
def ticked (s : State) : State :=
  { s with tickCount := s.nextTick, slots := tickSlots s.params.timeWidth s.taskCount.toNat s.slots,
           isrSeen := true, timerPending := false, inIsr := false }

theorem tickIsrBody_eq_ticked {s : State} (h : s.schedReady = true) : tickIsrBody s = .next (ticked s) :=
  tickIsrBody_eq_next.2 (.inl ⟨h, rfl⟩)

theorem ticked_slotAt_cb (s : State) (i : Nat) : ((ticked s).slotAt i).cb = (s.slotAt i).cb := by
  rw [slotAt_tick rfl]
  split <;> simp

/-- An interrupt before the sequencer's first micro-step does what one right after it does. -/
theorem firstMicro_ticked {s : State} {i : Nat} (h : AtMicro i 0 s) (hp : s.periphReady = true) :
    exec .pseqStep (ticked s) = mapNext ticked (exec .pseqStep s) := by
  have ht : AtMicro i 0 (ticked s) := ⟨h.1, h.2.1, (ticked_slotAt_cb s i).trans h.2.2⟩
  have hp' : (ticked s).periphReady = true := hp
  rw [pseqStep_eq h, pseqStep_eq ht]
  simp only [hp, hp', and_false, if_false, reduceCtorEq, mapNext, microStep, complete, sampleButton, h.2.1]
  simp only [ticked, h.2.1, State.nextTick, State.readButton]

/-- The same before an EXTERNAL callback's step that works or returns. -/
theorem externalStep_ticked {s : State} {i k : Nat} (h : s.env.extMove = .work ∨ s.env.extMove = .ret) :
    externalStep i k (ticked s) = mapNext ticked (externalStep i k s) := by
  rcases h with h | h <;> simp only [externalStep, ticked, h] <;> rfl

/-- The same between the tick that lifts a hold and the step that ends it. -/
theorem endHold_ticked (s : State) : endHold (ticked s) = ticked (endHold s) := by
  cases h : s.phase <;> simp only [endHold, complete, ticked, h] <;> rfl

/-- The same where the step that ends the main loop's wait starts the next pass. -/
theorem afterWait_ticked {s : State} (h : s.env.turn = .task) (hp : s.phase = .wait) :
    afterWait (ticked s) = mapNext ticked (afterWait s) := by
  cases hr : s.schedReady <;> cases hd : s.inDispatch <;>
    simp [afterWait, exec, execSchedDispatch, wrongClass, State.context, mayIssue, checked, firstFault, startPass,
      Phase.isCallback, raised, raiseFault, mapNext, ticked, State.nextTick, h, hp, hr, hd]

/-- What a micro-step can be: the sample, a write, a blink, the settle delay, the transition, or the return of a
continuation past the end. -/
theorem microStep_cases (i k : Nat) (s : State) :
    (k = 0 ∧ microStep i k s = complete (sampleButton s)) ∨
    (∃ j, k = j + 1 ∧
      ((∃ m, (microProgram s.params (PowerState.ofBits s.pstate))[j]? = some m ∧
          microStep i k s = runMicro i m s) ∨
        ((microProgram s.params (PowerState.ofBits s.pstate))[j]? = none ∧
          microStep i k s = returnFromCallback i s))) := by
  cases k with
  | zero => exact .inl ⟨rfl, rfl⟩
  | succ j =>
    refine .inr ⟨j, rfl, ?_⟩
    cases h : (microProgram s.params (PowerState.ofBits s.pstate))[j]? <;> simp [microStep, h]

/-- `tick_phase` stays with the timer one higher, or goes to its target. -/
theorem tickPhase_cases (n : Nat) (p : PowerState) (s : State) :
    (n ≤ wrapTo s.params.phaseTimerWidth (s.phaseTimer + 1) ∧ tickPhase n p s = gotoState p s) ∨
      (¬ n ≤ wrapTo s.params.phaseTimerWidth (s.phaseTimer + 1) ∧
        tickPhase n p s = { s with phaseTimer := wrapTo s.params.phaseTimerWidth (s.phaseTimer + 1) }) := by
  by_cases h : n ≤ wrapTo s.params.phaseTimerWidth (s.phaseTimer + 1) <;> simp [tickPhase, h]

/-- A transition keeps the power state and counts, keeps both, or goes to its target. -/
theorem applyTransition_cases (tr : Transition) (s : State) :
    (∃ p, (tr = .goto p ∨ (tr = .gotoIfEdge p ∧ s.edge = true) ∨
        ∃ n, tr = .tickPhase n p ∧ n ≤ wrapTo s.params.phaseTimerWidth (s.phaseTimer + 1)) ∧ applyTransition tr s = gotoState p s) ∨
      (∃ p, tr = .gotoIfEdge p ∧ s.edge = false ∧ applyTransition tr s = s) ∨
      (∃ n p, tr = .tickPhase n p ∧ ¬ n ≤ wrapTo s.params.phaseTimerWidth (s.phaseTimer + 1) ∧
        applyTransition tr s = { s with phaseTimer := wrapTo s.params.phaseTimerWidth (s.phaseTimer + 1) }) := by
  cases tr with
  | goto p => exact .inl ⟨p, .inl rfl, rfl⟩
  | gotoIfEdge p =>
    cases h : s.edge
    · exact .inr (.inl ⟨p, rfl, rfl, by simp [applyTransition, h]⟩)
    · exact .inl ⟨p, .inr (.inl ⟨rfl, rfl⟩), by simp [applyTransition, h]⟩
  | tickPhase n p =>
    rcases tickPhase_cases n p s with ⟨h, e⟩ | ⟨h, e⟩
    · exact .inl ⟨p, .inr (.inr ⟨n, rfl, h⟩), e⟩
    · exact .inr (.inr ⟨n, p, rfl, h, e⟩)

/-! ### The drawn choices -/

@[simp] theorem drawChoices_slotAt (s : State) (i : Nat) : (drawChoices s).slotAt i = s.slotAt i := rfl
@[simp] theorem drawChoices_seqMicro (s : State) : seqMicro (drawChoices s) = seqMicro s := rfl
@[simp] theorem drawChoices_fetchWord (s : State) : (drawChoices s).fetchWord = s.fetchWord := rfl

/-- An invariant that does not read the drawn choices is kept by a step when every agent keeps it. -/
theorem step_invariant {P : State → Prop} (hd : ∀ s, P s → P (drawChoices s))
    (ha : ∀ s t, s.phase ≠ .halted → s.fault = 0 → P s → agentStep s = .next t → P t) :
    ∀ s t, P s → step s = .next t → P t := by
  intro s t hs h
  obtain ⟨-, h₁, h₂, u, hu, rfl⟩ := step_eq_next.1 h
  exact hd u (ha s u h₁ h₂ hs hu)

end Sys2Proof.Laws
end

