-- ==== Sys2Proof/Laws/Fairness.lean ====
section
/-! SUPPORT. What the fairness of spec/70_reset_and_hazards.md R270 gives: a step is a move of a run, and in a fair run with
the timer running and interrupts enabled a WAIT_IRQ ends (spec/44_control.md R214, R215). -/

namespace Sys2Proof.Laws

open Sys2Proof.Machine Sys2Proof.Safety

/-- The model's own step is one of the moves that a run may make. -/
theorem nextFor_of_step {s t : State} (h : step s = .next t) : NextFor s t := by
  obtain ⟨h₁, h₂, h₃, u, hu, rfl⟩ := step_eq_next.1 h
  exact ⟨⟨h₁, h₃, h₂⟩, u, _, hu, rfl⟩

/-- A move during a wait that no interrupt and no fault ends: the wait goes on, a pending fire stays, an enabled fire
becomes pending, and no enabled interrupt was taken. -/
theorem waiting_move {s t : State} (h : NextFor s t) (hw : s.hold = .waitIrq) (hs : s.isrSeen = false)
    (ht : t.isrSeen = false) (hf : t.fault = 0) :
    t.hold = .waitIrq ∧ (s.timerPending = true → t.timerPending = true) ∧
      (s.env.turn = .environment → s.timerRunning = true → t.timerPending = true) ∧
      ¬(s.env.turn = .interrupt ∧ s.isrEnabled = true) := by
  obtain ⟨⟨-, hf₀, -⟩, u, env, hu, rfl⟩ := h
  replace ht : u.isrSeen = false := ht
  replace hf : u.fault = 0 := hf
  show u.hold = .waitIrq ∧ (_ → u.timerPending = true) ∧ (_ → _ → u.timerPending = true) ∧ _
  cases hturn : s.env.turn with
  | task =>
    rw [agentStep_task hturn] at hu
    simp only [taskStep, hw, hs] at hu
    cases hu
    simp [hw]
  | interrupt =>
    rw [agentStep_interrupt hturn, tickIsr_eq_next hturn] at hu
    rcases hu with ⟨he, rfl⟩ | ⟨-, -, rfl⟩ | ⟨-, -, rfl⟩
    · simp [hw, he]
    · simp at ht
    · simp [hf₀, FaultCode.code] at hf
  | environment =>
    rw [agentStep_environment hturn, timerFire_eq hturn] at hu
    cases hu
    by_cases hr : s.timerRunning = true
    · simp [State.fireEnabled, hr, hf₀, hw]
    · simp [State.fireEnabled, hr, hw]

/-- In a fair run with the timer running, interrupts enabled and no fault, a wait ends. -/
theorem fair_wait_ends {r : Nat → State} (h : FairRun r) {n : Nat} (hw : (r n).hold = .waitIrq)
    (hon : ∀ m, n ≤ m → (r m).timerRunning = true ∧ (r m).irqEnabled = true ∧ (r m).fault = 0) :
    ∃ m, n ≤ m ∧ (r m).isrSeen = true := by
  by_contra hno
  have hs : ∀ m, n ≤ m → (r m).isrSeen = false := fun m hm => by
    cases hi : (r m).isrSeen
    · rfl
    · exact absurd ⟨m, hm, hi⟩ hno
  have move : ∀ m, n ≤ m → (r m).hold = .waitIrq → _ := fun m hm hw' =>
    waiting_move (h.run m) hw' (hs m hm) (hs (m + 1) (by omega)) (hon (m + 1) (by omega)).2.2
  have hold : ∀ m, n ≤ m → (r m).hold = .waitIrq := fun m hm => by
    induction m, hm using Nat.le_induction with
    | base => exact hw
    | succ m hm ih => exact (move m hm ih).1
  have point : ∀ m, n ≤ m → InterruptPoint (r m) := fun m hm =>
    .inr ⟨(h.run m).1.2.2, .inr ⟨hold m hm, hs m hm⟩⟩
  obtain ⟨k, hk, hturn⟩ := h.timer n (fun m hm => ⟨(hon m hm).1, (hon m hm).2.2⟩) n
  have pending : ∀ m, k + 1 ≤ m → (r m).timerPending = true := fun m hm => by
    induction m, hm using Nat.le_induction with
    | base => exact (move k hk (hold k hk)).2.2.1 hturn (hon k hk).1
    | succ m hm ih => exact (move m (by omega) (hold m (by omega))).2.1 ih
  obtain ⟨m, hm, hi, hp⟩ := h.interrupt (k + 1)
    (fun m hm => ⟨pending m hm, (hon m (by omega)).2⟩)
    (fun m => ⟨max m n, le_max_left _ _, point _ (le_max_right _ _)⟩)
  have hnm : n ≤ m := by omega
  refine (move m hnm (hold m hnm)).2.2.2 ⟨hi, ?_⟩
  simp [State.isrEnabled, pending m hm, (hon m hnm).2.1, (hon m hnm).2.2, (atInterruptPoint_iff _).2 hp]

end Sys2Proof.Laws
end

