-- ==== Sys2Proof/Laws/PerInstr.lean ====
section
/-! SUPPORT. One lemma per operation, over its encoding: the OP field of its word is the number of the opcode map. -/

namespace Sys2Proof.Laws.EncodedOpcode

open Sys2Proof

/-- The number of an operation in the opcode map of spec/30_encoding.md R85. -/
def number : Instr → Byte
  | .schedInit => 0x01
  | .schedAddTask _ _ _ _ => 0x02
  | .schedDispatch => 0x03
  | .schedDispatchSlot _ => 0x04
  | .schedTick => 0x05
  | .timerFire => 0x08
  | .tickIsr => 0x09
  | .periphInit => 0x10
  | .irqDisable => 0x11
  | .irqEnable => 0x12
  | .waitIrq => 0x13
  | .mainLoop => 0x14
  | .fatalHalt => 0x15
  | .pseqStep => 0x18
  | .readButton => 0x20
  | .setRelay _ _ => 0x21
  | .setLed _ => 0x22
  | .getTicks => 0x23
  | .delayMs _ => 0x24

/-- The word of an operation holds its number in OP, bits 63:56 (R82). -/
def Statement (i : Instr) : Prop := opcode (encode i) = number i

theorem schedInit : Statement .schedInit := by unfold Statement; decide
theorem schedAddTask (cb : Byte) (dly per name : Half) : Statement (.schedAddTask cb dly per name) := by
  simp only [Statement, opcode, bits, encode, number]
  ext j hj
  simp only [BitVec.getElem_extractLsb', BitVec.getLsbD_append]
  simp [show ¬ 56 + j < 16 by omega, show ¬ 56 + j - 16 < 16 by omega, show ¬ 56 + j - 16 - 16 < 16 by omega, show ¬ 56 + j - 16 - 16 - 16 < 8 by omega,
    show 56 + j - 16 - 16 - 16 - 8 = j by omega, BitVec.getLsbD_eq_getElem, hj]
theorem schedDispatch : Statement .schedDispatch := by unfold Statement; decide
theorem schedDispatchSlot (slot : Byte) : Statement (.schedDispatchSlot slot) := by
  simp only [Statement, opcode, bits, encode, wordS, number]
  ext j hj
  simp only [BitVec.getElem_extractLsb', BitVec.getLsbD_append]
  simp [show ¬ 56 + j < 48 by omega, show ¬ 56 + j - 48 < 8 by omega,
    show 56 + j - 48 - 8 = j by omega, BitVec.getLsbD_eq_getElem, hj]
theorem schedTick : Statement .schedTick := by unfold Statement; decide
theorem timerFire : Statement .timerFire := by unfold Statement; decide
theorem tickIsr : Statement .tickIsr := by unfold Statement; decide
theorem periphInit : Statement .periphInit := by unfold Statement; decide
theorem irqDisable : Statement .irqDisable := by unfold Statement; decide
theorem irqEnable : Statement .irqEnable := by unfold Statement; decide
theorem waitIrq : Statement .waitIrq := by unfold Statement; decide
theorem mainLoop : Statement .mainLoop := by unfold Statement; decide
theorem fatalHalt : Statement .fatalHalt := by unfold Statement; decide
theorem pseqStep : Statement .pseqStep := by unfold Statement; decide
theorem readButton : Statement .readButton := by unfold Statement; decide
theorem setRelay (id lvl : Byte) : Statement (.setRelay id lvl) := by
  simp only [Statement, opcode, bits, encode, number]
  ext j hj
  simp only [BitVec.getElem_extractLsb', BitVec.getLsbD_append]
  simp [show ¬ 56 + j < 40 by omega, show ¬ 56 + j - 40 < 8 by omega, show ¬ 56 + j - 40 - 8 < 8 by omega,
    show 56 + j - 40 - 8 - 8 = j by omega, BitVec.getLsbD_eq_getElem, hj]
theorem setLed (lvl : Byte) : Statement (.setLed lvl) := by
  simp only [Statement, opcode, bits, encode, wordS, number]
  ext j hj
  simp only [BitVec.getElem_extractLsb', BitVec.getLsbD_append]
  simp [show ¬ 56 + j < 48 by omega, show ¬ 56 + j - 48 < 8 by omega,
    show 56 + j - 48 - 8 = j by omega, BitVec.getLsbD_eq_getElem, hj]
theorem getTicks : Statement .getTicks := by unfold Statement; decide
theorem delayMs (ms : Tick) : Statement (.delayMs ms) := by
  simp only [Statement, opcode, bits, encode, number]
  ext j hj
  simp only [BitVec.getElem_extractLsb', BitVec.getLsbD_append]
  simp [show ¬ 56 + j < 32 by omega, show ¬ 56 + j - 32 < 24 by omega,
    show 56 + j - 32 - 24 = j by omega, BitVec.getLsbD_eq_getElem, hj]

end Sys2Proof.Laws.EncodedOpcode
end

