-- ==== Sys2Proof/Tests/Slice0.lean ====
section
/-! SUPPORT. Tests of single definitions and single steps. The expected results are the spec's own: the worked encodings
of spec/30_encoding.md R85 and R91, and the vectors V-… of spec/95_test_vectors.md, named in each comment. Then one
theorem for each statement that has hypotheses, with a state and operands that meet them. -/

namespace Sys2Proof.Tests

open Sys2Proof Sys2Proof.Machine Sys2Proof.Safety

/-! ### A small machine -/

/-- The parameters of the vectors: N1 = 10, N2 = 2, N3 = 3, two callbacks. -/
def cfg : Config.Params where
  tickHz := 1000
  tickWidth := 32
  timeWidth := 16
  nameWidth := 16
  maxTasks := 4
  numCallbacks := 2
  seqPeriod := 100
  seqInitialDelay := 100
  n1 := 10
  n2 := 2
  n3 := 3
  phaseTimerWidth := 16
  settleMs := 5
  buttonBit := 0
  outputPolarity := true

/-- The startup words of program P1 (spec/95_test_vectors.md). -/
def startupWords : List OpWord :=
  [0x1100000000000000, 0x1000000000000000, 0x0100000000000000, 0x0200006400640000, 0x1200000000000000,
    0x1400000000000000]

/-- After reset, with those parameters and the startup program. -/
def fresh : State :=
  { State.reset with params := cfg, slots := List.replicate 4 Slot.unwritten, program := startupWords }

/-- `fresh` with PERIPH_INIT and SCHED_INIT done. -/
def ready : State := { fresh with periphReady := true, timerRunning := true, schedReady := true, pc := 3 }

/-- A registered sequencer task. -/
def seqSlot : Slot := newSlot cfg 0 100 100 0

/-- The main loop runs, with the sequencer in slot 0 and an EXTERNAL task in slot 1. -/
def looping : State :=
  { ready with taskCount := 2, slots := [seqSlot, newSlot cfg 1 0 7 3, Slot.unwritten, Slot.unwritten],
               seqRegistered := true, irqEnabled := true, mainEntered := true, pc := 5, phase := .wait }

/-- A sequencer invocation in slot 0, at micro-step `k`, in a power state. -/
def invocation (k : Nat) (p : Byte) : State :=
  { looping with phase := .inCallback 0 k, inDispatch := true, passIndex := 1, pstate := p }

/-- Whether an answer is a next state with a property. -/
def nextWith (r : Result) (p : State → Bool) : Bool :=
  match r with
  | .next t => p t
  | .fault _ => false
  | .refused _ => false

/-- Whether an answer is the fault entry of a code. -/
def raises (r : Result) (c : Byte) : Bool := nextWith r fun t => t.fault == c && t.phase == .halted

/-! ### WellFormed refuses each ill-formed term -/

theorem test_wf_empty_program : programWf [] = false := by decide
theorem test_wf_bad_last_word : programWf [0x1100000000000000, 0x1000000000000000] = false := by decide
theorem test_wf_startup : programWf startupWords = true := by decide
theorem test_wf_max_tasks : ({ cfg with maxTasks := 0 } : Config.Params).wf = false := by decide
theorem test_wf_no_callbacks : ({ cfg with numCallbacks := 0 } : Config.Params).wf = false := by decide
theorem test_wf_many_callbacks : ({ cfg with numCallbacks := 257 } : Config.Params).wf = false := by decide
theorem test_wf_n1 : ({ cfg with n1 := 0 } : Config.Params).wf = false := by decide
theorem test_wf_n2 : ({ cfg with n2 := 0 } : Config.Params).wf = false := by decide
theorem test_wf_n3 : ({ cfg with n3 := 0 } : Config.Params).wf = false := by decide
theorem test_wf_seq_period : ({ cfg with seqPeriod := 0 } : Config.Params).wf = false := by decide
theorem test_wf_tick_width : ({ cfg with tickWidth := 31 } : Config.Params).wf = false := by decide
theorem test_wf_time_width : ({ cfg with timeWidth := 15 } : Config.Params).wf = false := by decide
theorem test_wf_name_width : ({ cfg with nameWidth := 15 } : Config.Params).wf = false := by decide
theorem test_wf_n1_width : ({ cfg with n1 := 65536 } : Config.Params).wf = false := by decide
theorem test_wf_n2_width : ({ cfg with n2 := 65536 } : Config.Params).wf = false := by decide
theorem test_wf_n3_width : ({ cfg with n3 := 65536 } : Config.Params).wf = false := by decide
theorem test_wf_seq_period_width : ({ cfg with seqPeriod := 65536 } : Config.Params).wf = false := by decide
theorem test_wf_seq_delay_width : ({ cfg with seqInitialDelay := 65536 } : Config.Params).wf = false := by decide
theorem test_wf_params : cfg.wf = true := by decide
theorem test_wf_plain : (Listing.plain (.setLed 1)).wf cfg = false := by decide
theorem test_wf_cb : (Listing.addTask 256 0 1 0).wf cfg = false := by decide
theorem test_wf_delay_field : (Listing.addTask 0 65536 1 0).wf cfg = false := by decide
theorem test_wf_period : (Listing.addTask 0 0 65536 0).wf cfg = false := by decide
theorem test_wf_name : (Listing.addTask 0 0 1 65536).wf cfg = false := by decide
theorem test_wf_slot : (Listing.dispatchSlot 256).wf cfg = false := by decide
theorem test_wf_relay_id : (Listing.setRelay 256 0).wf cfg = false := by decide
theorem test_wf_relay_level : (Listing.setRelay 0 256).wf cfg = false := by decide
theorem test_wf_led : (Listing.setLed 256).wf cfg = false := by decide
theorem test_wf_seq_period_operand :
    Listing.addSeqTask.wf { cfg with timeWidth := 17, seqPeriod := 65536 } = false := by decide
theorem test_wf_seq_delay_operand :
    Listing.startup.wf { cfg with timeWidth := 17, seqInitialDelay := 65536 } = false := by decide
theorem test_wf_ms : (Listing.delayMs 4294967296).wf cfg = false := by decide

/-- A program of 65536 words is too long (R217). -/
theorem test_wf_too_long : programWf (List.replicate 65535 0#64 ++ [mainLoopWord]) = false := by
  have h : ¬ (List.replicate 65535 0#64 ++ [mainLoopWord]).length ≤ 65535 := by
    rw [List.length_append, List.length_replicate, List.length_singleton]; omega
  simp only [programWf, decide_eq_false h, Bool.and_false, Bool.false_and]

/-! ### Decoding: one word for every row of R85, written out from the formats of R82 -/

theorem test_decode_schedInit : decode 0x0100000000000000 = some .schedInit := by decide
theorem test_decode_schedAddTask : decode 0x0201000200030007 = some (.schedAddTask 1 2 3 7) := by decide
theorem test_decode_schedDispatch : decode 0x0300000000000000 = some .schedDispatch := by decide
theorem test_decode_schedDispatchSlot : decode 0x0405000000000000 = some (.schedDispatchSlot 5) := by decide
theorem test_decode_schedTick : decode 0x0500000000000000 = some .schedTick := by decide
theorem test_decode_timerFire : decode 0x0800000000000000 = some .timerFire := by decide
theorem test_decode_tickIsr : decode 0x0900000000000000 = some .tickIsr := by decide
theorem test_decode_periphInit : decode 0x1000000000000000 = some .periphInit := by decide
theorem test_decode_irqDisable : decode 0x1100000000000000 = some .irqDisable := by decide
theorem test_decode_irqEnable : decode 0x1200000000000000 = some .irqEnable := by decide
theorem test_decode_waitIrq : decode 0x1300000000000000 = some .waitIrq := by decide
theorem test_decode_mainLoop : decode 0x1400000000000000 = some .mainLoop := by decide
theorem test_decode_fatalHalt : decode 0x1500000000000000 = some .fatalHalt := by decide
theorem test_decode_pseqStep : decode 0x1800000000000000 = some .pseqStep := by decide
theorem test_decode_readButton : decode 0x2000000000000000 = some .readButton := by decide
theorem test_decode_setRelay : decode 0x2102010000000000 = some (.setRelay 2 1) := by decide
theorem test_decode_setLed : decode 0x2201000000000000 = some (.setLed 1) := by decide
theorem test_decode_getTicks : decode 0x2300000000000000 = some .getTicks := by decide
theorem test_decode_delayMs : decode 0x24000000FFFFFFFF = some (.delayMs 4294967295) := by decide

/-- V-E1 to V-E6 and V-E18: illegal words. -/
theorem test_decode_illegal :
    decode 0x0000000000000000 = none ∧ decode 0x0600000000000000 = none ∧ decode 0xFF00000000000000 = none ∧
      decode 0x0100000000000001 = none ∧ decode 0x2102010000000001 = none ∧
      decode 0x2400000100000005 = none ∧ decode 0x0900000000000100 = none := by decide

/-- R91's words, from the encoder. -/
theorem test_encode :
    encode (.schedAddTask 0 100 100 0) = 0x0200006400640000 ∧ encode (.setRelay 2 1) = 0x2102010000000000 ∧
      encode (.setLed 1) = 0x2201000000000000 ∧ encode (.delayMs 5) = 0x2400000000000005 := by decide

/-- R61: the byte image, most significant byte first; and the table's numbering of the same word. -/
theorem test_bytes :
    wordBytes 0x2102010000000000 = [0x21, 0x02, 0x01, 0, 0, 0, 0, 0] ∧
      decodeBytes [0x21, 0x02, 0x01, 0, 0, 0, 0, 0] = some (.setRelay 2 1) ∧
      decodeTableWord 64 0x2102010000000000 = some (.setRelay 2 1) := by decide

/-- R265: STARTUP assembles to the six words of P1. -/
theorem test_startup : assemble cfg .startup = some startupWords := by decide

/-- R89, R90: a listing text with a comment, a hexadecimal operand and a relay name. -/
theorem test_assembler :
    assembleText cfg ["SET_RELAY LIVE_DIRECT, 0x1 ; close", "DELAY_MS 5"] =
      some [0x2102010000000000, 0x2400000000000005] := by decide

/-! ### Fetching: the interface's own definitions -/

/-- V-E17: FATAL_HALT as the first word after reset. -/
theorem test_fetch_fatalHalt : raises (step (State.reset.withFetchWord 64 0x1500000000000000)) 0x0B = true := by
  decide

/-- V-E1: the zero word as the first word after reset. -/
theorem test_fetch_illegal : raises (step (State.reset.withFetchWord 64 0)) 0x05 = true := by decide

/-- V-C1: PERIPH_INIT as the first word after reset. -/
theorem test_fetch_periphInit :
    nextWith (step (State.reset.withFetchWord 64 0x1000000000000000))
      (fun t => t.periphReady && t.pc == 1) = true := by decide

/-- V-C11: the empty program is refused. -/
theorem test_reset_refused : step State.reset = .refused .illFormedProgram := rfl

/-! ### Single steps, at most two for an operation -/

/-- V-S1. -/
theorem test_schedInit :
    nextWith (exec .schedInit fresh) (fun t => t.schedReady && t.pc == 1) = true := by decide
/-- V-S2. -/
theorem test_schedInit_late : raises (exec .schedInit { fresh with irqEnabled := true }) 0x03 = true := by decide

/-- V-S4. -/
theorem test_schedAddTask :
    nextWith (exec (.schedAddTask 0 100 100 0) ready)
      (fun t => t.slotAt 0 == ⟨0, 0, 100, 100, 100, false⟩ && t.seqRegistered) = true := by decide
/-- V-F5: DUP_SEQUENCER comes before CAPACITY. -/
theorem test_schedAddTask_dup :
    raises (exec (.schedAddTask 0 0 1 0) { ready with seqRegistered := true, taskCount := 4 }) 0x0A = true := by
  decide

/-- V-S17, its first step. -/
theorem test_schedDispatch :
    nextWith (exec .schedDispatch ready) (fun t => t.phase == .boot && t.inDispatch) = true := by decide
/-- V-S18. -/
theorem test_schedDispatch_notReady : raises (exec .schedDispatch fresh) 0x06 = true := by decide

/-- V-S16, the step of slot 0. -/
theorem test_schedDispatchSlot :
    nextWith
      (exec (.schedDispatchSlot 0)
        { looping with phase := .dispatch 0, inDispatch := true, slots := [{ seqSlot with due := true }] })
      (fun t => t.phase == .inCallback 0 0 && !(t.slotAt 0).due) = true := by decide
/-- V-F7. -/
theorem test_schedDispatchSlot_boot : raises (exec (.schedDispatchSlot 0) fresh) 0x07 = true := by decide

/-- V-S13: two due signals merge into one. -/
theorem test_schedTick :
    nextWith
      (exec .schedTick
        { looping with env := { looping.env with turn := .interrupt }, inIsr := true, taskCount := 1,
                       slots := [{ seqSlot with period := 3, countdown := 1, due := true }] })
      (fun t => (t.slotAt 0).countdown == 3 && (t.slotAt 0).due) = true := by decide
/-- V-E12. -/
theorem test_schedTick_boot : raises (exec .schedTick fresh) 0x07 = true := by decide

/-- V-T1. -/
theorem test_timerFire :
    nextWith (exec .timerFire { ready with env := { ready.env with turn := .environment } })
      (fun t => t.timerPending) = true := by decide
/-- V-T3: not enabled before PERIPH_INIT. -/
theorem test_timerFire_stopped :
    nextWith (exec .timerFire { fresh with env := { fresh.env with turn := .environment } })
      (fun t => !t.timerPending && t.fault == 0) = true := by decide

/-- V-T4. -/
theorem test_tickIsr :
    nextWith
      (exec .tickIsr
        { looping with env := { looping.env with turn := .interrupt }, timerPending := true, tickCount := 41,
                       taskCount := 1, slots := [{ seqSlot with countdown := 1 }] })
      (fun t => t.tickCount == 42 && t.slotAt 0 == { seqSlot with countdown := 100, due := true } &&
        !t.timerPending && t.isrSeen && !t.inIsr) = true := by decide
/-- V-T6: the entry and the count stay when SCHED_TICK raises. -/
theorem test_tickIsr_notReady :
    nextWith
      (exec .tickIsr
        { fresh with env := { fresh.env with turn := .interrupt }, timerPending := true, irqEnabled := true,
                     tickCount := 7, pc := 5 })
      (fun t => t.fault == 0x06 && t.tickCount == 8 && t.inIsr && t.timerPending) = true := by decide

/-- R238: no interrupt between the test-and-clear and the first micro-step, one after it; none once a hold is lifted. -/
theorem test_interruptPoint :
    (invocation 0 3).atInterruptPoint = false ∧ (invocation 1 3).atInterruptPoint = true ∧
      ({ looping with hold := .waitIrq } : State).atInterruptPoint = true ∧
      ({ looping with hold := .waitIrq, isrSeen := true } : State).atInterruptPoint = false := by decide

/-- V-C1: the five events of PERIPH_INIT in order. -/
theorem test_periphInit :
    nextWith (exec .periphInit fresh)
      (fun t => t.outLog.map (fun e => e.id.number) == [3, 2, 1, 0, 4] && t.timerRunning) = true := by decide
/-- V-C2. -/
theorem test_periphInit_late : raises (exec .periphInit { fresh with irqEnabled := true }) 0x03 = true := by decide

/-- V-C4. -/
theorem test_irqDisable :
    nextWith (exec .irqDisable { fresh with irqEnabled := true }) (fun t => !t.irqEnabled && t.pc == 1) = true := by
  decide
/-- V-C3. -/
theorem test_irqEnable : nextWith (exec .irqEnable fresh) (fun t => t.irqEnabled && t.pc == 1) = true := by decide

/-- V-C8: the wait forgets an interrupt taken before it. -/
theorem test_waitIrq :
    nextWith (exec .waitIrq { looping with isrSeen := true }) (fun t => !t.isrSeen && t.hold == .waitIrq) = true := by
  decide
/-- V-C7: the interrupt ends the wait, and the next pass follows. -/
theorem test_waitIrq_lifted :
    nextWith (step { looping with isrSeen := true, hold := .waitIrq })
      (fun t => t.inDispatch && t.phase == .wait && t.hold == .none) = true := by decide

/-- P1, word 5. -/
theorem test_mainLoop :
    nextWith (exec .mainLoop { ready with pc := 5 })
      (fun t => t.mainEntered && t.inDispatch && t.pc == 5) = true := by decide
/-- V-C6. -/
theorem test_mainLoop_notReady :
    nextWith (exec .mainLoop { fresh with pc := 5 })
      (fun t => t.mainEntered && t.fault == 0x06 && t.pc == 5) = true := by decide

/-- V-C9 and V-F9: the outputs stay as they are. -/
theorem test_fatalHalt :
    nextWith (exec .fatalHalt { ready with out := ⟨true, false, true, true, true⟩ })
      (fun t => t.fault == 0x0B && t.pc == 3 && t.out == ⟨true, false, true, true, true⟩) = true := by decide

/-- V-Q6: the tenth LIVE_VIA_RESISTOR invocation goes on to SPEAKER_PRECHARGE. -/
theorem test_pseqStep_resistor :
    nextWith
      (microSteps 4
        { invocation 0 2 with phaseTimer := 9, blink := true, out := ⟨true, true, false, false, true⟩ })
      (fun t => t.pstate == 3 && t.phaseTimer == 0 && t.out == ⟨true, true, false, false, false⟩) = true := by decide
/-- V-Q18: an invalid power state is recovered to OFF, outputs off, no fault. -/
theorem test_pseqStep_invalid :
    nextWith
      (microSteps 7
        { invocation 0 9 with phaseTimer := 4, blink := true, out := ⟨true, true, true, true, true⟩ })
      (fun t => t.pstate == 0 && t.phaseTimer == 0 && t.out == ⟨false, false, false, false, false⟩ &&
        t.blink && t.fault == 0) = true := by decide

/-- V-I2. -/
theorem test_readButton :
    nextWith (exec .readButton ready) (fun t => t.result == .level true && t.pc == 4) = true := by decide
/-- V-I1. -/
theorem test_readButton_notReady : raises (exec .readButton fresh) 0x06 = true := by decide

/-- V-I3. -/
theorem test_setRelay :
    nextWith (exec (.setRelay 0 1) ready) (fun t => t.out.neutral && t.outLog == [⟨.neutral, true, 0⟩]) = true := by
  decide
/-- V-I4. -/
theorem test_setRelay_badId : raises (exec (.setRelay 4 1) ready) 0x09 = true := by decide

/-- V-I8. -/
theorem test_setLed :
    nextWith (exec (.setLed 1) ready) (fun t => t.out.led && !t.blink && t.outLog == [⟨.led, true, 0⟩]) = true := by
  decide
/-- V-I9. -/
theorem test_setLed_badLevel : raises (exec (.setLed 2) ready) 0x09 = true := by decide

/-- V-T8. -/
theorem test_getTicks :
    nextWith (exec .getTicks { ready with tickCount := 0x00010000 })
      (fun t => t.result == .ticks 0x00010000 && t.pc == 4) = true := by decide

/-- V-I10. -/
theorem test_delayMs_zero :
    nextWith (exec (.delayMs 0) { fresh with tickCount := 9 })
      (fun t => t.delayStart == 9 && t.hold == .none && t.pc == 1) = true := by decide
/-- V-I12: the hold is lifted across the wrap of the counter, at 3 and not at 2. -/
theorem test_delayMs_wrap :
    ({ fresh with delayStart := 0xFFFFFFFE, tickCount := 3 } : State).delayDone 5 = true ∧
      ({ fresh with delayStart := 0xFFFFFFFE, tickCount := 2 } : State).delayDone 5 = false := by decide

/-! ### Witnesses: states and operands that meet the hypotheses of the statements, clause by clause -/

/-- `s` with the next step an agent's. -/
def turnOf (a : Agent) (s : State) : State := { s with env := { s.env with turn := a } }

/-- The interrupt is pending in the main loop. -/
def pending : State := turnOf .interrupt { looping with timerPending := true }

/-- A machine whose SETTLE_MS is 0. -/
def noSettle (s : State) : State := { s with params := { s.params with settleMs := 0 } }

/-- The main loop's pass stands before slot `i`. -/
def passAt (i : Nat) : State := { looping with phase := .dispatch i, inDispatch := true, passIndex := i }

/-- The EXTERNAL callback of slot 1 runs. -/
def external (m : ExtMove) : State :=
  { looping with phase := .inCallback 1 0, inDispatch := true, passIndex := 2, env := { looping.env with extMove := m } }

/-- A boot WAIT_IRQ holds with interrupts off. -/
def stuckWait : State := { ready with hold := .waitIrq, program := 0x1300000000000000 :: startupWords, pc := 0 }

/-- The block after a fault. -/
def faulted : State := { looping with fault := 0x06, phase := .halted }

/-- The amplifier is on the ON path: the second LIVE_VIA_RESISTOR invocation, after its relay write. -/
def onPath : State := { invocation 2 2 with phaseTimer := 1, out := ⟨true, true, false, false, false⟩ }

theorem witness_StepRunsDecodedInstruction :
    Running fresh ∧ TaskReady fresh ∧ fresh.phase = .boot ∧ fresh.inDispatch = false ∧
      fresh.program[fresh.pc.toNat]? = some 0x1100000000000000 ∧
      decode 0x1100000000000000 = some .irqDisable := by
  simp only [Running, TaskReady]; decide

theorem witness_IllegalWordRaisesIllegalOp :
    Running { fresh with program := [0, 0x1500000000000000] } ∧
      TaskReady { fresh with program := [0, 0x1500000000000000] } ∧ fresh.inDispatch = false ∧ decode 0 = none := by
  simp only [Running, TaskReady]; decide

theorem witness_StepRunsTheContextsOperation :
    (Running pending ∧ pending.env.turn = .interrupt) ∧
      (Running (turnOf .environment looping) ∧ (turnOf .environment looping).env.turn = .environment) ∧
      (Running fresh ∧ TaskReady fresh ∧ fresh.phase = .boot ∧ fresh.inDispatch = false) ∧
      (Running (invocation 3 0) ∧ TaskReady (invocation 3 0) ∧ ((invocation 3 0).slotAt 0).cb = 0) ∧
      (Running (external .ret) ∧ TaskReady (external .ret) ∧ ((external .ret).slotAt 1).cb ≠ 0) ∧
      (Running looping ∧ TaskReady looping ∧ looping.phase = .wait ∧ looping.inDispatch = false) := by
  simp only [Running, TaskReady]; decide

/-- A pass before its last slot and after it, and at its first interrupt point. -/
theorem witness_InPass :
    (Running (passAt 1) ∧ TaskReady (passAt 1) ∧ InPass (passAt 1) ∧
      (passAt 1).passIndex < (passAt 1).taskCount.toNat) ∧
      (Running (passAt 2) ∧ TaskReady (passAt 2) ∧ InPass (passAt 2) ∧
        (passAt 2).taskCount.toNat ≤ (passAt 2).passIndex) ∧
      InPass { looping with inDispatch := true } := by
  refine ⟨⟨?_, ?_, ⟨rfl, .inr (.inr ⟨1, rfl⟩)⟩, by decide⟩, ⟨?_, ?_, ⟨rfl, .inr (.inr ⟨2, rfl⟩)⟩, by decide⟩,
    rfl, .inr (.inl rfl)⟩ <;> (simp only [Running, TaskReady]; decide)

theorem witness_IllFormedProgramRefused :
    State.reset.program = [] ∧ 65535 < (List.replicate 65536 mainLoopWord).length ∧
      ([0x1100000000000000] : List OpWord).getLast? ≠ some (encode .mainLoop) ∧
      ([0x1100000000000000] : List OpWord).getLast? ≠ some (encode .fatalHalt) :=
  ⟨rfl, by rw [List.length_replicate]; omega, by decide, by decide⟩

theorem witness_HaltedBlockTakesNoStep :
    (programWf faulted.program = true ∧ faulted.phase = .halted ∧ faulted.fault ≠ 0) ∧
      programWf ({ looping with fault := 0x01 } : State).program = true ∧
      ({ looping with fault := 0x01 } : State).fault ≠ 0 := by decide

theorem witness_TimerFireSetsPending :
    (turnOf .environment ready).env.turn = .environment ∧ (turnOf .environment ready).timerRunning = true ∧
      (turnOf .environment fresh).timerRunning = false := by decide

theorem witness_TickIsrRuns :
    InterruptPoint pending ∧ pending.env.turn = .interrupt ∧ pending.timerPending = true ∧ pending.irqEnabled = true ∧
      pending.fault = 0 ∧ pending.schedReady = true ∧ 1 < pending.taskCount.toNat ∧ 1 < pending.slots.length :=
  ⟨.inl ⟨rfl, .inr (.inr (.inr (.inr rfl)))⟩, by decide⟩

theorem witness_TickIsrNotReadyOrNotEnabled :
    (∃ s : State, InterruptPoint s ∧ s.env.turn = .interrupt ∧ s.timerPending = true ∧ s.irqEnabled = true ∧
      s.fault = 0 ∧ s.schedReady = false) ∧
      (∃ s : State, s.env.turn = .interrupt ∧ s.timerPending = false) ∧
      (∃ s : State, s.env.turn = .interrupt ∧ s.irqEnabled = false) ∧
      (∃ s : State, s.env.turn = .interrupt ∧ s.fault ≠ 0) ∧
      ∃ s : State, s.env.turn = .interrupt ∧ ¬ InterruptPoint s := by
  refine ⟨⟨{ pending with schedReady := false }, .inl ⟨rfl, .inr (.inr (.inr (.inr rfl)))⟩, by decide⟩,
    ⟨turnOf .interrupt looping, by decide⟩, ⟨{ pending with irqEnabled := false }, by decide⟩,
    ⟨turnOf .interrupt faulted, by decide⟩, ⟨turnOf .interrupt (invocation 0 3), rfl, ?_⟩⟩
  simp [InterruptPoint, InPass, turnOf, invocation, looping, ready, fresh, State.reset]

theorem witness_ReadsReturnTheirValue :
    (AtBoot ready ∧ ready.periphReady = true) ∧ AtExternal 1 0 (external .getTicks) ∧
      AtMicro 0 4 (invocation 4 3) ∧ (invocation 4 3).periphReady = true := by
  simp only [AtBoot, AtExternal, AtMicro]; decide

/-- One step that counts an interrupt. -/
theorem witness_TickCounterCountsInterrupts :
    pending.tickCount < 2 ^ pending.params.tickWidth ∧ isrCount 1 pending = 1 ∧ ∃ t, core.run 1 pending = .next t :=
  ⟨by decide, rfl, _, rfl⟩

theorem witness_SchedInitEmptiesRegistry :
    AtBoot fresh ∧ fresh.irqEnabled = false ∧ fresh.mainEntered = false := by
  simp only [AtBoot]; decide

/-- The sequencer's registration, and the last free slot. -/
theorem witness_SchedAddTaskRegisters :
    (AtBoot ready ∧ ready.schedReady = true ∧ ready.irqEnabled = false ∧ ready.mainEntered = false ∧
      (0 : Byte).toNat < ready.params.numCallbacks ∧ (1 : Half) ≠ 0 ∧ ready.seqRegistered = false ∧
      ready.taskCount ≠ ready.params.maxTasks ∧ ready.taskCount.toNat < ready.slots.length) ∧
      (1 : Byte).toNat < ready.params.numCallbacks ∧
      ({ ready with taskCount := 3 } : State).taskCount ≠ ready.params.maxTasks := by
  simp only [AtBoot]; decide

/-- The `if` chain of SchedAddTaskFaultPriority. -/
def addFault (s : State) (cb : Byte) (per : Half) : Byte :=
  if s.schedReady = false then 0x06
  else if s.irqEnabled = true ∨ s.mainEntered = true then 0x03
  else if s.params.numCallbacks ≤ cb.toNat then 0x08
  else if per = 0 then 0x02
  else if cb = 0 ∧ s.seqRegistered = true then 0x0A
  else if s.taskCount = s.params.maxTasks then 0x01
  else 0x00

/-- Each fault of SCHED_ADD_TASK is the first one at some state and operands (V-F1 to V-F5 and V-S10), the callback index at
the first value out of range. -/
theorem witness_SchedAddTaskFaultPriority :
    (AtBoot { fresh with irqEnabled := true } ∧ addFault { fresh with irqEnabled := true } 5 0 = 0x06) ∧
      (AtBoot { ready with irqEnabled := true } ∧ addFault { ready with irqEnabled := true } 5 0 = 0x03) ∧
      (AtBoot ready ∧ ready.fault = 0 ∧ addFault ready 2 0 = 0x08 ∧ addFault ready 1 0 = 0x02) ∧
      (AtBoot { ready with seqRegistered := true, taskCount := 4 } ∧
        addFault { ready with seqRegistered := true, taskCount := 4 } 0 0 = 0x02 ∧
        addFault { ready with seqRegistered := true, taskCount := 4 } 0 1 = 0x0A ∧
        addFault { ready with seqRegistered := true, taskCount := 4 } 1 1 = 0x01) := by
  simp only [AtBoot]; decide

theorem witness_LateConfigurationFaults :
    AtBoot { fresh with irqEnabled := true } ∧ AtBoot { fresh with mainEntered := true } ∧ fresh.fault = 0 := by
  simp only [AtBoot]; decide

theorem witness_SchedTickDecrementsAndMarks :
    ({ pending with inIsr := true } : State).env.turn = .interrupt ∧
      ({ pending with inIsr := true } : State).inIsr = true ∧ pending.schedReady = true := by decide

theorem witness_SchedDispatchStartsPass :
    (ready.env.turn = .task ∧ ready.phase = .boot ∧ ready.schedReady = true ∧ ready.inDispatch = false) ∧
      looping.env.turn = .task ∧ looping.phase = .wait ∧ looping.schedReady = true ∧ looping.inDispatch = false := by
  decide

/-- The last registered slot, with its flag clear and set. -/
theorem witness_SlotStepTestsAndClears :
    (passAt 1).env.turn = .task ∧ (passAt 1).phase = .dispatch 1 ∧ (passAt 1).inDispatch = true ∧
      (passAt 1).schedReady = true ∧ (1 : Byte).toNat < (passAt 1).taskCount.toNat ∧
      (1 : Byte).toNat < (passAt 1).slots.length ∧ ((passAt 1).slotAt 1).due = false ∧
      (({ passAt 1 with slots := [seqSlot, { seqSlot with due := true }] } : State).slotAt 1).due = true := by decide

/-- Before SCHED_INIT; inside a pass; inside a callback; the first slot that is not registered; a pass before SCHED_INIT; a
slot outside a pass. -/
theorem witness_DispatchFaults :
    (fresh.env.turn = .task ∧ fresh.phase ≠ .halted ∧ fresh.fault = 0 ∧ fresh.schedReady = false) ∧
      ((passAt 0).env.turn = .task ∧ (passAt 0).phase = .dispatch 0 ∧ (passAt 0).fault = 0 ∧
        (passAt 0).schedReady = true ∧ (passAt 0).inDispatch = true ∧
        (passAt 0).taskCount.toNat ≤ (2 : Byte).toNat) ∧
      ((invocation 0 0).env.turn = .task ∧ (invocation 0 0).fault = 0 ∧ (invocation 0 0).schedReady = true ∧
        (invocation 0 0).phase = .inCallback 0 0) ∧
      (∃ s : State, s.env.turn = .task ∧ s.phase = .dispatch 0 ∧ s.fault = 0 ∧ s.inDispatch = true ∧
        s.schedReady = false) ∧
      ∃ s : State, s.env.turn = .task ∧ s.phase = .dispatch 0 ∧ s.fault = 0 ∧ s.inDispatch = false :=
  ⟨by decide, by decide, by decide, ⟨{ passAt 0 with schedReady := false }, by decide⟩,
    { passAt 0 with inDispatch := false }, by decide⟩

theorem witness_PassEnds :
    (Running (passAt 2) ∧ TaskReady (passAt 2) ∧ (passAt 2).inDispatch = true ∧ (passAt 2).phase = .dispatch 2 ∧
      (passAt 2).taskCount.toNat ≤ (passAt 2).passIndex ∧ (passAt 2).mainEntered = true) ∧
      Running { ready with inDispatch := true } ∧ ready.phase = .boot ∧ ready.mainEntered = false ∧
      ready.taskCount.toNat ≤ ready.passIndex := by
  simp only [Running, TaskReady]; decide

theorem witness_DueFlagSchedule :
    16 ≤ cfg.timeWidth ∧ (1 : Half) ≠ 0 ∧ firesNext 16 (newSlot cfg 1 0 1 0) = true ∧
      firesNext 16 (newSlot cfg 1 2 1 0) = false := by decide

/-- The flag survives an interrupt, and the step that tests it calls the callback. -/
theorem witness_DueSignalNeverLost :
    (∃ t, step { pending with slots := [{ seqSlot with due := true }] } = .next t) ∧
      (∃ t, step { passAt 0 with slots := [{ seqSlot with due := true }] } = .next t) ∧
      0 < (passAt 0).taskCount.toNat ∧
      (({ passAt 0 with slots := [{ seqSlot with due := true }] } : State).slotAt 0).due = true :=
  ⟨⟨_, rfl⟩, ⟨_, rfl⟩, by decide, by decide⟩

theorem witness_RegistrationFrozenAfterMain :
    pending.mainEntered = true ∧ ∃ t, step pending = .next t := ⟨rfl, _, rfl⟩

theorem witness_ExternalCallbackFrame :
    Running (external (.delay 3)) ∧ AtExternal 1 0 (external (.delay 3)) ∧ (external (.delay 3)).hold = .none := by
  simp only [Running, AtExternal]; decide

theorem witness_SequencerSamplesFirst : AtMicro 0 0 (invocation 0 4) ∧ (invocation 0 4).periphReady = true := by
  simp only [AtMicro]; decide

theorem witness_EveryMicroStepCompletes :
    AtMicro 0 0 (invocation 0 4) ∧ (invocation 0 4).periphReady = true ∧ AtMicro 0 99 (invocation 99 255) := by
  simp only [AtMicro]; decide

/-- OFF, and the first and the last invalid value. -/
theorem witness_OffAndInvalidInvocations :
    (AtMicro 0 0 (invocation 0 0) ∧ (invocation 0 0).periphReady = true ∧ (invocation 0 0).pstate = 0) ∧
      (AtMicro 0 0 (invocation 0 9) ∧ 9 ≤ (invocation 0 9).pstate.toNat) ∧
      AtMicro 0 0 (invocation 0 255) ∧ 9 ≤ (invocation 0 255).pstate.toNat := by
  simp only [AtMicro]; decide

theorem witness_NeutralAndOnInvocations :
    (AtMicro 0 0 (invocation 0 1) ∧ (invocation 0 1).pstate = 1 ∧ (invocation 0 1).periphReady = true) ∧
      AtMicro 0 0 (invocation 0 4) ∧ (invocation 0 4).pstate = 4 ∧ (invocation 0 4).periphReady = true := by
  simp only [AtMicro]; decide

theorem witness_BlinkingInvocations :
    (AtMicro 0 0 (invocation 0 2) ∧ (invocation 0 2).pstate = 2 ∧ (invocation 0 2).periphReady = true) ∧
      AtMicro 0 0 (invocation 0 8) ∧ (invocation 0 8).pstate = 8 ∧ (invocation 0 8).periphReady = true := by
  simp only [AtMicro]; decide

theorem witness_PrechargeInvocation :
    (AtMicro 0 0 (invocation 0 3) ∧ (invocation 0 3).pstate = 3 ∧ (invocation 0 3).periphReady = true ∧
      (invocation 0 3).params.settleMs ≠ 0) ∧
      (AtMicro 0 0 (noSettle (invocation 0 3)) ∧ (noSettle (invocation 0 3)).pstate = 3 ∧
        (noSettle (invocation 0 3)).periphReady = true ∧ (noSettle (invocation 0 3)).params.settleMs = 0) ∧
      AtMicro 0 3 (invocation 3 3) ∧ (invocation 3 3).pstate = 3 := by
  simp only [AtMicro]; decide

theorem witness_ShutdownStepInvocations :
    (AtMicro 0 0 (invocation 0 5) ∧ (invocation 0 5).pstate = 5) ∧
      (AtMicro 0 0 (invocation 0 6) ∧ (invocation 0 6).pstate = 6) ∧
      AtMicro 0 0 (invocation 0 7) ∧ (invocation 0 7).pstate = 7 ∧ (invocation 0 7).periphReady = true := by
  simp only [AtMicro]; decide

theorem witness_TickPhaseTakesNInvocations :
    looping.phaseTimer = 0 ∧ 65535 < 2 ^ looping.params.phaseTimerWidth ∧ 2 < max 3 1 ∧ 0 < max 0 1 ∧
      ({ looping with phaseTimer := 3 } : State).phaseTimer ≤ max 3 1 := by decide

theorem witness_SequencerRecordOwnedByPseqStep :
    Instr.setLed 1 ≠ .pseqStep ∧ ∃ t, exec (.setLed 1) ready = .next t := ⟨by decide, _, rfl⟩

theorem witness_SetRelayWritesAndLogs :
    (ready.periphReady = true ∧ OutId.speaker ≠ .led ∧ AtBoot ready) ∧ AtMicro 0 1 (invocation 1 3) ∧
      (invocation 1 3).periphReady = true := by
  simp only [AtBoot, AtMicro]; decide

theorem witness_SetLedWritesAndLogs :
    (ready.periphReady = true ∧ AtBoot ready) ∧ AtMicro 0 2 (invocation 2 1) ∧
      (invocation 2 1).periphReady = true := by
  simp only [AtBoot, AtMicro]; decide

/-- Before PERIPH_INIT, in the boot program and in callback 0; after it, the first id and the first level out of range. -/
theorem witness_IoFaults :
    (AtBoot fresh ∧ fresh.fault = 0 ∧ fresh.periphReady = false) ∧
      (AtMicro 0 0 { invocation 0 0 with periphReady := false } ∧ (invocation 0 0).fault = 0) ∧
      (AtBoot ready ∧ ready.fault = 0 ∧ ready.periphReady = true) ∧ 3 < (4 : Byte).toNat ∧ 1 < (2 : Byte).toNat := by
  simp only [AtBoot, AtMicro]; decide

theorem witness_DelayMsStarts :
    AtBoot ready ∧ AtMicro 0 2 (invocation 2 3) ∧ AtExternal 1 0 (external (.delay 0)) := by
  simp only [AtBoot, AtMicro, AtExternal]; decide

/-- One tick before the end of a hold, and at its end, in the boot program and in a callback. -/
theorem witness_DelayHoldLifts :
    (∃ s : State, (programWf s.program = true ∧ s.fault = 0 ∧ s.phase = .boot) ∧ s.env.turn = .task ∧
      s.hold = .delay 5 ∧ subWrap s.params.tickWidth s.tickCount s.delayStart < 5) ∧
      (∃ s : State, (programWf s.program = true ∧ s.fault = 0 ∧ s.phase = .boot) ∧ s.env.turn = .task ∧
        s.hold = .delay 5 ∧ 5 ≤ subWrap s.params.tickWidth s.tickCount s.delayStart) ∧
      ∃ s : State, (programWf s.program = true ∧ s.fault = 0 ∧ s.phase = .inCallback 0 2) ∧ s.env.turn = .task ∧
        s.hold = .delay 5 ∧ 5 ≤ subWrap s.params.tickWidth s.tickCount s.delayStart :=
  ⟨⟨{ ready with hold := .delay 5, tickCount := 4 }, by decide⟩,
    ⟨{ ready with hold := .delay 5, tickCount := 5 }, by decide⟩,
    ⟨{ invocation 2 3 with hold := .delay 5, tickCount := 5 }, by decide⟩⟩

theorem witness_PeriphInitClearsOutputs : AtBoot fresh ∧ fresh.irqEnabled = false := by
  simp only [AtBoot]; decide

theorem witness_IrqEnableAndDisable :
    AtBoot fresh ∧ looping.env.turn = .task ∧ looping.phase ≠ .boot ∧ looping.fault = 0 := by
  simp only [AtBoot]; decide

theorem witness_WaitIrqHolds :
    (ready.env.turn = .task ∧ ready.phase = .boot) ∧ looping.env.turn = .task ∧ looping.phase = .wait := by decide

theorem witness_WaitHoldLifts :
    (Running stuckWait ∧ stuckWait.env.turn = .task ∧ stuckWait.hold = .waitIrq ∧ stuckWait.isrSeen = false) ∧
      (Running { stuckWait with isrSeen := true } ∧ stuckWait.phase = .boot) ∧
      Running { looping with hold := .waitIrq, isrSeen := true } ∧ looping.phase = .wait ∧
      looping.env.turn = .task := by
  simp only [Running]; decide

theorem witness_HangWithInterruptsOff :
    (stuckWait.irqEnabled = false ∧ stuckWait.phase = .boot ∧ stuckWait.hold = .waitIrq ∧
      stuckWait.isrSeen = false ∧ ∃ t, step stuckWait = .next t) ∧
      ({ ready with hold := .delay 1 } : State).delayDone 1 = false ∧
      ∃ t, step { ready with hold := .delay 1 } = .next t :=
  ⟨⟨rfl, rfl, rfl, rfl, _, rfl⟩, by decide, _, rfl⟩

theorem witness_MainLoopStartsFirstPass :
    (AtBoot ready ∧ ready.schedReady = true ∧ ready.inDispatch = false) ∧
      AtBoot fresh ∧ fresh.schedReady = false ∧ fresh.fault = 0 := by
  simp only [AtBoot]; decide

theorem witness_FatalHaltRaisesHalt :
    (fresh.env.turn = .task ∧ fresh.phase = .boot ∧ fresh.fault = 0) ∧
      looping.env.turn = .task ∧ looping.phase ≠ .boot ∧ looping.fault = 0 := by decide

/-- Each context of the statement, with an operation outside its class. -/
theorem witness_WrongContextOutsideClass :
    (fresh.fault = 0 ∧ fresh.env.turn = .task ∧ fresh.phase = .boot) ∧
      (looping.fault = 0 ∧ looping.env.turn = .task ∧ looping.phase = .wait) ∧
      ((passAt 0).fault = 0 ∧ (passAt 0).env.turn = .task ∧ (passAt 0).phase = .dispatch 0) ∧
      ((invocation 0 0).fault = 0 ∧ AtMicro 0 0 (invocation 0 0)) ∧
      ((external .work).fault = 0 ∧ AtExternal 1 0 (external .work)) ∧
      (pending.fault = 0 ∧ pending.env.turn = .interrupt ∧ pending.inIsr = false ∧ Instr.schedTick ≠ .tickIsr) ∧
      (turnOf .environment looping).env.turn = .environment ∧ Instr.tickIsr ≠ .timerFire := by
  simp only [AtMicro, AtExternal]; decide

/-- An operation in a block that holds a fault, one that raises the first, and a step that does. -/
theorem witness_FaultRegisterSticky :
    (faulted.fault ≠ 0 ∧ ∃ t, exec .fatalHalt faulted = .next t) ∧
      (∃ t, exec .fatalHalt ready = .next t ∧ t.fault ≠ ready.fault) ∧
      ∃ t, step { fresh with program := [0, 0x1500000000000000] } = .next t ∧ t.fault ≠ 0 :=
  ⟨⟨by decide, _, rfl⟩, ⟨_, rfl, by decide⟩, _, rfl, by decide⟩

theorem witness_ConfigurationAndReadinessKept :
    (∃ t, step looping = .next t) ∧ looping.periphReady = true ∧ looping.timerRunning = true ∧
      looping.mainEntered = true ∧ looping.schedReady = true := ⟨⟨_, rfl⟩, rfl, rfl, rfl, rfl⟩

/-- A written latch, and a step that writes it again. -/
theorem witness_LatchesFollowTheLog :
    LatchInv { onPath with outLog := [⟨.liveRes, true, 7⟩] } ∧
      ∃ t, step { onPath with outLog := [⟨.liveRes, true, 7⟩] } = .next t := by
  refine ⟨?_, _, rfl⟩
  intro id v
  cases id <;> cases v <;> decide

theorem looping_slot_cases (i : Nat) (h : i < 2) : i = 0 ∨ i = 1 := by omega

theorem witness_RegistryInvKept : RegistryInv pending ∧ ∃ t, step pending = .next t := by
  refine ⟨⟨by decide, rfl, by decide, ?_, ?_, ?_, by decide⟩, _, rfl⟩
  · intro i hi
    rcases looping_slot_cases i hi with rfl | rfl <;> (simp only [SlotOk]; decide)
  · exact ⟨fun _ => ⟨0, by decide, by decide⟩, fun _ => rfl⟩
  · intro i j hi hj
    rcases looping_slot_cases i hi with rfl | rfl <;> rcases looping_slot_cases j hj with rfl | rfl <;> decide

theorem witness_ControlInvKept : ControlInv (passAt 1) ∧ ∃ t, step (passAt 1) = .next t := by
  refine ⟨⟨by decide, by decide, by decide, by decide, by decide, by decide, ?_, ?_, by decide, by decide, by decide,
    by decide, ?_, by decide, by decide⟩, _, rfl⟩
  · intro i h; cases h; decide
  · intro i k h; cases h
  · intro ms h; cases h

theorem witness_SequencerInvKept : SequencerInv onPath ∧ ∃ t, step onPath = .next t := by
  refine ⟨?_, _, rfl⟩
  simp only [SequencerInv]; decide

/-- What the startup words decode to (R265). -/
theorem startup_decodes :
    startupWords.map decode =
      [some .irqDisable, some .periphInit, some .schedInit, some (.schedAddTask 0 100 100 0), some .irqEnable,
        some .mainLoop] := by decide

theorem startup_no_relay (w : OpWord) (hw : w ∈ startupWords) (id lvl : Byte) : decode w ≠ some (.setRelay id lvl) := by
  intro hd
  have h := List.mem_map_of_mem (f := decode) hw
  rw [startup_decodes, hd] at h
  simp at h

theorem startup_no_pass (w : OpWord) (hw : w ∈ startupWords) : decode w ≠ some .schedDispatch := by
  intro hd
  have h := List.mem_map_of_mem (f := decode) hw
  rw [startup_decodes, hd] at h
  simp at h

theorem witness_RelayInvKept : RelayInv onPath ∧ ∃ t, step onPath = .next t := by
  refine ⟨⟨startup_no_relay, startup_no_pass, by decide, by decide, by decide, by decide, ?_, ?_, by decide⟩, _, rfl⟩
  · intro i k _ _ hh
    exact absurd rfl hh
  · intro _
    exact ⟨rfl, rfl, fun _ => rfl⟩

theorem witness_RelayInvGivesSafety : RelayInv onPath ∧ onPath.periphReady = true ∧ OnPath onPath :=
  ⟨witness_RelayInvKept.1, rfl, .inl ⟨rfl, .inl (by decide)⟩⟩

theorem witness_InvariantsAtReset :
    programWf startupWords = true ∧
      ∀ w ∈ startupWords, (∀ id lvl, decode w ≠ some (.setRelay id lvl)) ∧ decode w ≠ some .schedDispatch :=
  ⟨by decide, fun w hw => ⟨startup_no_relay w hw, startup_no_pass w hw⟩⟩

/-! ### A fair run (R270): the main loop with no task, one tick a wait -/

/-- The Tick Counter after `q` interrupts. -/
def tickAt : Nat → Nat
  | 0 => 0
  | q + 1 => wrapTo 32 (tickAt q + 1)

/-- The main loop with no task registered, at a count. -/
def idleLoop (q : Nat) : State := { looping with taskCount := 0, tickCount := tickAt q }

/-- The five states of round `q`: waiting, fired, interrupted, in an empty pass, after it. -/
def fairRound (j q : Nat) : State :=
  match j with
  | 0 => turnOf .environment { idleLoop q with hold := .waitIrq }
  | 1 => turnOf .interrupt { idleLoop q with hold := .waitIrq, timerPending := true }
  | 2 => { idleLoop (q + 1) with hold := .waitIrq, isrSeen := true }
  | 3 => { idleLoop (q + 1) with isrSeen := true, inDispatch := true }
  | _ => { idleLoop (q + 1) with isrSeen := true }

/-- The run that goes through the rounds. -/
def fairly (n : Nat) : State := fairRound (n % 5) (n / 5)

theorem fairly_round (q j : Nat) (h : j < 5) : fairly (5 * q + j) = fairRound j q := by
  rw [fairly, Nat.mul_add_mod, Nat.mod_eq_of_lt h, Nat.mul_add_div (by decide), Nat.div_eq_of_lt h, Nat.add_zero]

theorem fairRound_running (q : Nat) : ∀ j, Running (fairRound j q)
  | 0 => ⟨rfl, rfl, nofun⟩
  | 1 => ⟨rfl, rfl, nofun⟩
  | 2 => ⟨rfl, rfl, nofun⟩
  | 3 => ⟨rfl, rfl, nofun⟩
  | _ + 4 => ⟨rfl, rfl, nofun⟩

/-- The run is one that R270 calls fair, with the timer running, interrupts enabled and no fault. -/
theorem fairly_fair : FairRun fairly := by
  refine ⟨fun n => ?_, fun n _ m => ?_, fun n _ _ => ?_, fun n _ _ => ?_⟩
  · have key : ∀ j q, j < 5 → NextFor (fairRound j q) (fairly (5 * q + j + 1)) := fun j q hj => by
      refine ⟨fairRound_running q j, ?_⟩
      match j, hj with
      | 0, _ => rw [fairly_round q 1 (by decide)]; exact ⟨_, _, rfl, rfl⟩
      | 1, _ => rw [fairly_round q 2 (by decide)]; exact ⟨_, _, rfl, rfl⟩
      | 2, _ => rw [fairly_round q 3 (by decide)]; exact ⟨_, _, rfl, rfl⟩
      | 3, _ => rw [fairly_round q 4 (by decide)]; exact ⟨_, _, rfl, rfl⟩
      | 4, _ => rw [show 5 * q + 4 + 1 = 5 * (q + 1) + 0 by omega, fairly_round (q + 1) 0 (by decide)]
                exact ⟨_, _, rfl, rfl⟩
    have h := key (n % 5) (n / 5) (Nat.mod_lt _ (by decide))
    rwa [show 5 * (n / 5) + n % 5 + 1 = n + 1 by omega] at h
  · refine ⟨5 * m + 0, by omega, ?_⟩
    show (fairly (5 * m + 0)).env.turn = .environment
    rw [fairly_round m 0 (by decide)]
    rfl
  · refine ⟨5 * n + 1, by omega, ?_⟩
    rw [fairly_round n 1 (by decide)]
    exact ⟨rfl, .inr ⟨nofun, .inr ⟨rfl, rfl⟩⟩⟩
  · refine ⟨5 * n + 2, by omega, ?_⟩
    rw [fairly_round n 2 (by decide)]
    exact ⟨rfl, by rintro (⟨ms, h, -⟩ | ⟨-, h⟩) <;> cases h⟩

theorem fairly_enabled (n : Nat) :
    (fairly n).timerRunning = true ∧ (fairly n).irqEnabled = true ∧ (fairly n).fault = 0 := by
  have h : ∀ j q, (fairRound j q).timerRunning = true ∧ (fairRound j q).irqEnabled = true ∧ (fairRound j q).fault = 0
    | 0, _ => ⟨rfl, rfl, rfl⟩
    | 1, _ => ⟨rfl, rfl, rfl⟩
    | 2, _ => ⟨rfl, rfl, rfl⟩
    | 3, _ => ⟨rfl, rfl, rfl⟩
    | _ + 4, _ => ⟨rfl, rfl, rfl⟩
  exact h _ _

theorem witness_fair_wait_ends :
    FairRun fairly ∧ (fairly 0).hold = .waitIrq ∧
      ∀ m, 0 ≤ m → (fairly m).timerRunning = true ∧ (fairly m).irqEnabled = true ∧ (fairly m).fault = 0 :=
  ⟨fairly_fair, rfl, fun m _ => fairly_enabled m⟩

end Sys2Proof.Tests
end

/-! PROOFS of the statements about the state (spec/10_state.md). First what one operation and one step can do, said once:
every step moves the task context's continuation and then runs at most one operation, whose next state is one of the
shapes of `Effect`. Then each invariant, from those shapes. -/

namespace Sys2Proof.Proofs

open Sys2Proof Sys2Proof.Machine Sys2Proof.Safety Sys2Proof.Laws

/-! ### What an operation can do -/

/-- The step raised a fault of R231 and did nothing else. -/
def Faulted (s t : State) : Prop := ∃ c, c ≠ FaultCode.none ∧ t = raiseFault c s

/-- The phase is one in which an operation completes by moving on the continuation: a boot word or a callback. -/
def Completing (s : State) : Prop := s.phase = .boot ∨ ∃ i k, s.phase = .inCallback i k

/-- The next states of an operation that passes its first checks, with what those checks told of the state. PSEQ_STEP has
one shape for each kind of micro-step; MAIN_LOOP and TICK_ISR may also end in a fault after their first write (log
entry 11, R232). -/
inductive Effect (s : State) : Instr → State → Prop
  | schedInit (boot : s.phase = .boot) (early : s.mainEntered = false) :
      Effect s .schedInit (nextWord { s with taskCount := 0, seqRegistered := false, schedReady := true })
  | schedAddTask {cb : Byte} {dly per name : Half} (boot : s.phase = .boot) (ready : s.schedReady = true)
      (early : s.mainEntered = false) (period : per ≠ 0) (single : isSequencer cb = true → s.seqRegistered = false)
      (room : s.taskCount ≠ s.params.maxTasks) :
      Effect s (.schedAddTask cb dly per name) (nextWord (registerTask cb dly per name s))
  | schedDispatch (outside : s.phase.isCallback = false) (idle : s.inDispatch = false) :
      Effect s .schedDispatch { s with inDispatch := true, passIndex := 0 }
  | schedDispatchSlot {slot : Byte} (inside : ∃ j, s.phase = .dispatch j)
      (registered : slot.toNat < s.taskCount.toNat) :
      Effect s (.schedDispatchSlot slot)
        { clearDue slot.toNat s with
          phase := if (s.slotAt slot.toNat).due then .inCallback slot.toNat 0 else s.phase }
  | schedTick :
      Effect s .schedTick { s with slots := tickSlots s.params.timeWidth s.taskCount.toNat s.slots }
  | timerFire (pending : Bool) : Effect s .timerFire { s with timerPending := pending }
  | tickIsrIdle : Effect s .tickIsr s
  | tickIsr : Effect s .tickIsr (ticked s)
  | tickIsrNotReady : Effect s .tickIsr (raiseFault .notReady { s with inIsr := true, tickCount := s.nextTick })
  | periphInit (boot : s.phase = .boot) :
      Effect s .periphInit (nextWord { clearOutputs allOffOrder s with periphReady := true, timerRunning := true })
  | irqDisable (boot : s.phase = .boot) : Effect s .irqDisable (nextWord { s with irqEnabled := false })
  | irqEnable (boot : s.phase = .boot) : Effect s .irqEnable (nextWord { s with irqEnabled := true })
  | waitIrq (place : s.phase = .boot ∨ s.phase = .wait) : Effect s .waitIrq (startWait s)
  | mainLoop (boot : s.phase = .boot) :
      Effect s .mainLoop { s with mainEntered := true, inDispatch := true, passIndex := 0 }
  | mainLoopFault {c : FaultCode} (boot : s.phase = .boot) (code : c ≠ .none) :
      Effect s .mainLoop (raiseFault c { s with mainEntered := true })
  | sample (place : Completing s) : Effect s .pseqStep (complete (sampleButton s))
  | microWrite (place : Completing s) (id : OutId) (v : Bool) : Effect s .pseqStep (complete (writeOutput id v s))
  | microBlink (place : Completing s) : Effect s .pseqStep (complete (blinkLed s))
  | microSettle (place : Completing s) : Effect s .pseqStep (startDelay s.params.settleMs s)
  | microFinish {i k : Nat} {tr : Transition} (place : s.phase = .inCallback i k)
      (listed : .finish tr ∈ microProgram s.params (PowerState.ofBits s.pstate)) :
      Effect s .pseqStep (returnFromCallback i (applyTransition tr s))
  | microEnd {i k : Nat} (place : s.phase = .inCallback i k) : Effect s .pseqStep (returnFromCallback i s)
  | readButton (place : Completing s) (r : OpResult) : Effect s .readButton (complete { s with result := r })
  | setRelay {id lvl : Byte} (place : Completing s) (r : OutId) (v : Bool) :
      Effect s (.setRelay id lvl) (complete (writeOutput r v s))
  | setLed {lvl : Byte} (place : Completing s) (v : Bool) : Effect s (.setLed lvl) (complete (writeOutput .led v s))
  | getTicks (place : Completing s) (r : OpResult) : Effect s .getTicks (complete { s with result := r })
  | delayMs {ms : Tick} (place : Completing s) : Effect s (.delayMs ms) (startDelay ms.toNat s)

/-- The two answers of an operation. -/
def Executes (i : Instr) (s t : State) : Prop := Faulted s t ∨ Effect s i t

theorem raiseFault_faulted {c : FaultCode} (hc : c ≠ .none) (s : State) : Faulted s (raiseFault c s) := ⟨c, hc, rfl⟩

/-- What a context of the task context tells of the phase. -/
def ContextPhase : Context → Phase → Prop
  | .boot, p => p = .boot
  | .mainLoop, p => p = .wait
  | .dispatch, p => ∃ i, p = .dispatch i
  | .sequencer, p => ∃ i k, p = .inCallback i k
  | .external, p => ∃ i k, p = .inCallback i k
  | _, _ => True

theorem context_phase (s : State) : ContextPhase s.context s.phase := by
  unfold State.context
  cases s.env.turn <;> cases s.phase <;> simp [ContextPhase]
  next i k => cases isSequencer (s.slotAt i).cb <;> simp

theorem phase_of_context {s : State} {c : Context} (h : s.context = c) : ContextPhase c s.phase := h ▸ context_phase s

/-- What the checks of an operation find: no condition holds, or the code of one of them is raised. -/
theorem firstFault_cases (cs : List (Bool × FaultCode)) :
    (firstFault cs = none ∧ ∀ p ∈ cs, p.1 = false) ∨ ∃ c ∈ cs.map Prod.snd, firstFault cs = some c := by
  induction cs with
  | nil => simp
  | cons p cs ih =>
    obtain ⟨b, d⟩ := p
    cases b with
    | true => simp
    | false =>
      rcases ih with ⟨hn, hf⟩ | ⟨c, hc, hs⟩
      · simpa [hn] using hf
      · exact .inr ⟨c, List.mem_cons_of_mem _ hc, by simpa using hs⟩

/-- An operation behind its class check raises a fault, or passes every check and runs its body in a context of its
class. -/
theorem executes_of_checked {i : Instr} {cs : List (Bool × FaultCode)} {s t : State} {body : Result}
    (h : checked (wrongClass i s :: cs) s body = .next t) (codes : FaultCode.none ∉ cs.map Prod.snd)
    (run : mayIssue i s.context = true → (∀ p ∈ cs, p.1 = false) → body = .next t → Executes i s t) :
    Executes i s t := by
  rcases firstFault_cases (wrongClass i s :: cs) with ⟨hn, hf⟩ | ⟨c, hc, hs⟩
  · rw [checked_of_none hn] at h
    obtain ⟨hclass, hf⟩ := List.forall_mem_cons.1 hf
    exact run (by simpa [wrongClass] using hclass) hf h
  · rw [checked_of_some hs] at h
    obtain rfl := next_eq_next.1 h
    refine .inl (raiseFault_faulted ?_ s)
    rintro rfl
    simp [wrongClass, codes] at hc

/-- The same for an operation whose body is one next state. -/
theorem executes_of_checked_next {i : Instr} {cs : List (Bool × FaultCode)} {s t u : State}
    (h : checked (wrongClass i s :: cs) s (.next u) = .next t) (codes : FaultCode.none ∉ cs.map Prod.snd)
    (run : mayIssue i s.context = true → (∀ p ∈ cs, p.1 = false) → Effect s i u) : Executes i s t :=
  executes_of_checked h codes fun hc hf hb => .inr (next_eq_next.1 hb ▸ run hc hf)

/-- A pass starts outside any other, or the start faults. -/
theorem startPass_starts {s t : State} (h : startPass s = .next t) :
    Faulted s t ∨
      (s.phase.isCallback = false ∧ s.inDispatch = false ∧ t = { s with inDispatch := true, passIndex := 0 }) := by
  rcases startPass_eq_next.1 h with ⟨-, hp, hd, rfl⟩ | ⟨-, rfl⟩ | ⟨-, -, rfl⟩
  · exact .inr ⟨hp, hd, rfl⟩
  · exact .inl (raiseFault_faulted (by decide) s)
  · exact .inl (raiseFault_faulted (by decide) s)

/-- The place of an operation that only a boot word issues. -/
theorem boot_of_class {s : State} {i : Instr} (h : mayIssue i s.context = true)
    (boot : ∀ c, mayIssue i c = (c == .boot)) : s.phase = .boot :=
  phase_of_context (c := .boot) (by simpa [boot] using h)

/-- The place of an operation that boot words and callbacks issue. -/
theorem completing_of_class {s : State} {i : Instr} (h : mayIssue i s.context = true)
    (nowhereElse : [.mainLoop, .dispatch, .interrupt, .environment, .halted].any (mayIssue i) = false) :
    Completing s := by
  have place := context_phase s
  cases hc : s.context <;> rw [hc] at h place
  case boot => exact .inl place
  case sequencer => exact .inr place
  case external => exact .inr place
  all_goals simp [h] at nowhereElse

theorem execSchedAddTask_executes {cb : Byte} {dly per name : Half} {s t : State}
    (h : execSchedAddTask cb dly per name s = .next t) : Executes (.schedAddTask cb dly per name) s t :=
  executes_of_checked_next h (by simp) fun hc hf => by
    simp only [List.forall_mem_cons, List.not_mem_nil, Bool.not_eq_false', Bool.or_eq_false_iff,
      beq_eq_false_iff_ne] at hf
    obtain ⟨ready, ⟨-, early⟩, -, period, single, room, -⟩ := hf
    exact .schedAddTask (boot_of_class hc fun _ => rfl) ready early period (by simpa using single) room

theorem execMainLoop_executes {s t : State} (h : execMainLoop s = .next t) : Executes .mainLoop s t :=
  executes_of_checked h (by simp) fun hc _ hb => by
    have boot : s.phase = .boot := boot_of_class hc fun _ => rfl
    rcases startPass_starts hb with ⟨c, code, rfl⟩ | ⟨-, -, rfl⟩
    · exact .inr (.mainLoopFault boot code)
    · exact .inr (.mainLoop boot)

theorem execTickIsr_executes {s t : State} (h : execTickIsr s = .next t) : Executes .tickIsr s t :=
  executes_of_checked h (by simp) fun _ _ hb => by
    cases he : s.isrEnabled <;> simp only [he, Bool.false_eq_true, if_false, if_true] at hb
    · exact .inr (next_eq_next.1 hb ▸ .tickIsrIdle)
    · rcases tickIsrBody_eq_next.1 hb with ⟨-, rfl⟩ | ⟨-, rfl⟩
      · exact .inr .tickIsr
      · exact .inr .tickIsrNotReady

/-- A micro-step after the sample, as a shape of PSEQ_STEP. -/
theorem runMicro_effect {i k : Nat} {m : Micro} {s : State} (hp : s.phase = .inCallback i k)
    (hm : m ∈ microProgram s.params (PowerState.ofBits s.pstate)) : Effect s .pseqStep (runMicro i m s) := by
  have place : Completing s := .inr ⟨i, k, hp⟩
  cases m with
  | write id v => exact .microWrite place id v
  | blinkLed => exact .microBlink place
  | settle => exact .microSettle place
  | finish tr => exact .microFinish hp hm

theorem execPseqStep_executes {s t : State} (h : execPseqStep s = .next t) : Executes .pseqStep s t := by
  unfold execPseqStep at h
  split at h
  next i k hp =>
    refine executes_of_checked_next h (by simp) fun _ _ => ?_
    rcases microStep_cases i k s with ⟨-, e⟩ | ⟨j, -, ⟨m, hm, e⟩ | ⟨-, e⟩⟩ <;> rw [e]
    · exact .sample (.inr ⟨i, k, hp⟩)
    · exact runMicro_effect hp (List.mem_of_getElem? hm)
    · exact .microEnd hp
  next =>
    obtain rfl := raised_eq_next.1 h
    exact .inl (raiseFault_faulted (by decide) s)

theorem execSchedTick_executes {s t : State} (h : execSchedTick s = .next t) : Executes .schedTick s t :=
  executes_of_checked h (by simp) fun _ _ hb => by
    cases ht : schedTickOp s with
    | error c =>
      simp only [ht, raised_eq_next] at hb
      exact .inl ⟨c, by rcases schedTickOp_error.1 ht with ⟨-, rfl⟩ | ⟨-, -, rfl⟩ <;> decide, hb⟩
    | ok u =>
      simp only [ht] at hb
      obtain rfl := next_eq_next.1 hb
      obtain ⟨-, -, rfl⟩ := schedTickOp_ok.1 ht
      exact .inr .schedTick

theorem execTimerFire_executes {s t : State} (h : execTimerFire s = .next t) : Executes .timerFire s t :=
  executes_of_checked_next h (by simp) fun _ _ => by
    split
    · exact .timerFire true
    · exact .timerFire s.timerPending

theorem execSetRelay_executes {id lvl : Byte} {s t : State} (h : execSetRelay id lvl s = .next t) :
    Executes (.setRelay id lvl) s t :=
  executes_of_checked h (by simp) fun hc _ hb => by
    split at hb
    · exact .inr (next_eq_next.1 hb ▸ .setRelay (completing_of_class hc rfl) _ _)
    · exact .inl ⟨.badOperand, by decide, raised_eq_next.1 hb⟩

theorem execSetLed_executes {lvl : Byte} {s t : State} (h : execSetLed lvl s = .next t) : Executes (.setLed lvl) s t :=
  executes_of_checked h (by simp) fun hc _ hb => by
    split at hb
    · exact .inr (next_eq_next.1 hb ▸ .setLed (completing_of_class hc rfl) _)
    · exact .inl ⟨.badOperand, by decide, raised_eq_next.1 hb⟩

/-- Every operation that answers a next state raises a fault or has one of the shapes of `Effect`. -/
theorem exec_executes {i : Instr} {s t : State} (h : exec i s = .next t) : Executes i s t := by
  cases i with
  | schedInit =>
    exact executes_of_checked_next h (by simp) fun hc hf =>
      .schedInit (boot_of_class hc fun _ => rfl) (by simp at hf; exact hf.2)
  | schedAddTask cb dly per name => exact execSchedAddTask_executes h
  | schedDispatch =>
    exact executes_of_checked h (by simp) fun _ _ hb =>
      (startPass_starts hb).imp_right fun ⟨outside, idle, e⟩ => e ▸ .schedDispatch outside idle
  | schedDispatchSlot slot =>
    exact executes_of_checked_next h (by simp) fun hc hf =>
      .schedDispatchSlot (phase_of_context (c := .dispatch) (by simpa [mayIssue] using hc))
        (by simp [State.registered] at hf; exact hf.2.2)
  | schedTick => exact execSchedTick_executes h
  | timerFire => exact execTimerFire_executes h
  | tickIsr => exact execTickIsr_executes h
  | periphInit => exact executes_of_checked_next h (by simp) fun hc _ => .periphInit (boot_of_class hc fun _ => rfl)
  | irqDisable => exact executes_of_checked_next h (by simp) fun hc _ => .irqDisable (boot_of_class hc fun _ => rfl)
  | irqEnable => exact executes_of_checked_next h (by simp) fun hc _ => .irqEnable (boot_of_class hc fun _ => rfl)
  | waitIrq =>
    exact executes_of_checked_next h (by simp) fun hc _ => by
      have hc : s.context = .boot ∨ s.context = .mainLoop := by simpa [mayIssue] using hc
      exact .waitIrq (hc.imp phase_of_context phase_of_context)
  | mainLoop => exact execMainLoop_executes h
  | fatalHalt =>
    exact executes_of_checked h (by simp) fun _ _ hb => .inl ⟨.halt, by decide, raised_eq_next.1 hb⟩
  | pseqStep => exact execPseqStep_executes h
  | readButton =>
    exact executes_of_checked_next h (by simp) fun hc _ => .readButton (completing_of_class hc rfl) _
  | setRelay id lvl => exact execSetRelay_executes h
  | setLed lvl => exact execSetLed_executes h
  | getTicks =>
    exact executes_of_checked_next h (by simp) fun hc _ => .getTicks (completing_of_class hc rfl) _
  | delayMs ms =>
    exact executes_of_checked_next h (by simp) fun hc _ =>
      .delayMs (completing_of_class hc rfl)

/-! ### What a step can do -/

/-- The two states agree but for the task context's continuation (R239) and the drawn choices. -/
def SameBlock (s t : State) : Prop :=
  ∃ pc phase inDispatch passIndex hold env,
    t = { s with pc := pc, phase := phase, inDispatch := inDispatch, passIndex := passIndex, hold := hold, env := env }

/-- The continuation moves, and then at most one operation runs or one fault is raised. -/
def Progress (s t : State) : Prop :=
  ∃ u, SameBlock s u ∧ (t = u ∨ Faulted u t ∨ ∃ i, Effect u i t)

theorem sameBlock_refl (s : State) : SameBlock s s := ⟨_, _, _, _, _, _, rfl⟩

theorem sameBlock_complete (s : State) : SameBlock s (complete s) := by
  rcases complete_cases s with ⟨-, e⟩ | ⟨i, k, -, e⟩ | e <;> rw [e] <;> exact ⟨_, _, _, _, _, _, rfl⟩

theorem sameBlock_endHold (s : State) : SameBlock s (endHold s) := by
  obtain ⟨_, _, _, _, _, _, e⟩ := sameBlock_complete { s with hold := .none }
  exact ⟨_, _, _, _, _, _, e⟩

theorem sameBlock_endPass (s : State) : SameBlock s (endPass s) := by
  rcases endPass_cases s with ⟨-, e⟩ | ⟨-, e⟩ <;> rw [e] <;> exact ⟨_, _, _, _, _, _, rfl⟩

theorem progress_of_same {s t : State} (h : SameBlock s t) : Progress s t := ⟨t, h, .inl rfl⟩

theorem progress_of_exec {i : Instr} {s u t : State} (hu : SameBlock s u) (h : exec i u = .next t) : Progress s t :=
  ⟨u, hu, .inr ((exec_executes h).imp_right fun e => ⟨i, e⟩)⟩

theorem passStep_progress {s t : State} (h : passStep s = .next t) : Progress s t := by
  rcases passStep_eq_next.1 h with ⟨-, h⟩ | ⟨-, rfl⟩
  · exact progress_of_exec ⟨_, _, _, _, _, _, rfl⟩ h
  · exact progress_of_same (sameBlock_endPass s)

theorem fetchStep_progress {s t : State} (h : fetchStep s = .next t) : Progress s t := by
  obtain ⟨w, -, ⟨-, rfl⟩ | ⟨i, -, h⟩⟩ := fetchStep_eq_next.1 h
  · exact ⟨s, sameBlock_refl s, .inr (.inl (raiseFault_faulted (by decide) s))⟩
  · exact progress_of_exec (sameBlock_refl s) h

theorem externalStep_progress {i k : Nat} {s t : State} (h : externalStep i k s = .next t) : Progress s t := by
  rcases externalStep_eq_next.1 h with ⟨-, rfl⟩ | ⟨-, h⟩ | ⟨ms, -, h⟩ | ⟨-, rfl⟩
  · exact progress_of_same ⟨_, _, _, _, _, _, rfl⟩
  · exact progress_of_exec (sameBlock_refl s) h
  · exact progress_of_exec (sameBlock_refl s) h
  · exact progress_of_same ⟨_, _, _, _, _, _, rfl⟩

theorem phaseStep_progress {s t : State} (h : phaseStep s = .next t) : Progress s t := by
  rcases phaseStep_eq_next.1 h with ⟨-, -, h⟩ | ⟨-, h⟩ | ⟨i, k, -, -, h⟩ | ⟨i, k, -, -, h⟩ | ⟨-, -, h⟩
  · exact fetchStep_progress h
  · exact passStep_progress h
  · exact progress_of_exec (sameBlock_refl s) h
  · exact externalStep_progress h
  · exact progress_of_exec (sameBlock_refl s) h

theorem taskStep_progress {s t : State} (h : taskStep s = .next t) : Progress s t := by
  rcases taskStep_eq_next.1 h with ⟨-, h⟩ | ⟨ms, -, -, rfl⟩ | ⟨ms, -, -, rfl⟩ | ⟨-, -, h⟩ | ⟨-, -, rfl⟩
  · exact phaseStep_progress h
  · exact progress_of_same (sameBlock_endHold s)
  · exact progress_of_same (sameBlock_refl t)
  · rcases afterWait_eq_next.1 h with ⟨-, h⟩ | ⟨-, rfl⟩
    · exact progress_of_exec ⟨_, _, _, _, _, _, rfl⟩ h
    · exact progress_of_same (sameBlock_endHold s)
  · exact progress_of_same (sameBlock_refl t)

theorem agentStep_progress {s t : State} (h : agentStep s = .next t) : Progress s t := by
  cases turn : s.env.turn with
  | task => exact taskStep_progress (agentStep_task turn ▸ h)
  | interrupt => exact progress_of_exec (sameBlock_refl s) (agentStep_interrupt turn ▸ h)
  | environment => exact progress_of_exec (sameBlock_refl s) (agentStep_environment turn ▸ h)

/-- A preorder on states holds from each state to the next one when it holds across a move of the continuation, a fault
and every shape of an operation. -/
theorem step_preorder {R : State → State → Prop} (trans : ∀ {s t u}, R s t → R t u → R s u)
    (same : ∀ {s t}, SameBlock s t → R s t) (fault : ∀ c s, R s (raiseFault c s))
    (effect : ∀ {s i t}, Effect s i t → R s t) {s t : State} (h : step s = .next t) : R s t := by
  obtain ⟨-, -, -, v, hv, rfl⟩ := step_eq_next.1 h
  obtain ⟨u, hu, hv⟩ := agentStep_progress hv
  refine trans (same hu) (trans ?_ (same (t := drawChoices v) ⟨_, _, _, _, _, _, rfl⟩))
  rcases hv with rfl | ⟨c, -, rfl⟩ | ⟨i, hi⟩
  · exact same (sameBlock_refl v)
  · exact fault c u
  · exact effect hi

/-! ### Configuration and readiness (O53) -/

/-- The program and the parameters stay, and the four readiness flags are not cleared. -/
def ReadinessKept (s t : State) : Prop :=
  t.program = s.program ∧ t.params = s.params ∧
    (s.periphReady = true → t.periphReady = true) ∧ (s.timerRunning = true → t.timerRunning = true) ∧
    (s.mainEntered = true → t.mainEntered = true) ∧ (s.schedReady = true → t.schedReady = true)

theorem ReadinessKept.trans {s t u : State} (h₁ : ReadinessKept s t) (h₂ : ReadinessKept t u) : ReadinessKept s u := by
  obtain ⟨prog₁, par₁, periph₁, timer₁, main₁, sched₁⟩ := h₁
  obtain ⟨prog₂, par₂, periph₂, timer₂, main₂, sched₂⟩ := h₂
  exact ⟨prog₂.trans prog₁, par₂.trans par₁, periph₂ ∘ periph₁, timer₂ ∘ timer₁, main₂ ∘ main₁, sched₂ ∘ sched₁⟩

theorem SameBlock.readinessKept {s t : State} (h : SameBlock s t) : ReadinessKept s t := by
  obtain ⟨_, _, _, _, _, _, rfl⟩ := h
  exact ⟨rfl, rfl, id, id, id, id⟩

theorem raiseFault_readinessKept (c : FaultCode) (s : State) : ReadinessKept s (raiseFault c s) :=
  ⟨rfl, rfl, id, id, id, id⟩

theorem Effect.readinessKept {s t : State} {i : Instr} (h : Effect s i t) : ReadinessKept s t := by
  cases h <;> simp [ReadinessKept, registerTask, ticked]

/-- Settles O53: of the operations' effects only SCHED_INIT, PERIPH_INIT and MAIN_LOOP write one of the flags, and they
set it. -/
theorem configurationAndReadinessKept : Obligations.ConfigurationAndReadinessKept := fun _ _ =>
  step_preorder (R := ReadinessKept) ReadinessKept.trans SameBlock.readinessKept raiseFault_readinessKept
    Effect.readinessKept

/-! ### The output log (O54) -/

/-- The log is extended, and the latches still follow it if they did. -/
def Logged (s t : State) : Prop := s.outLog <+: t.outLog ∧ (LatchInv s → LatchInv t)

theorem Logged.trans {s t u : State} (h₁ : Logged s t) (h₂ : Logged t u) : Logged s u :=
  ⟨h₁.1.trans h₂.1, h₂.2 ∘ h₁.2⟩

theorem logged_of_same {s t : State} (out : t.out = s.out) (log : t.outLog = s.outLog) : Logged s t :=
  ⟨⟨[], by simp [log]⟩, fun h => by simpa [LatchInv, out, log] using h⟩

theorem SameBlock.logged {s t : State} (h : SameBlock s t) : Logged s t := by
  obtain ⟨_, _, _, _, _, _, rfl⟩ := h
  exact logged_of_same rfl rfl

/-- The last level of an output after one more event. -/
theorem lastLevel_append_singleton (id : OutId) (log : List OutEvent) (e : OutEvent) :
    lastLevel id (log ++ [e]) = if e.id = id then some e.level else lastLevel id log := by
  induction log with
  | nil => simp [lastLevel]
  | cons d log ih => by_cases h : e.id = id <;> simp [lastLevel, ih, h]

/-- An output write sets its latch to the level of the event it adds (R197). -/
theorem writeOutput_logged (id : OutId) (v : Bool) (s : State) : Logged s (writeOutput id v s) := by
  refine ⟨⟨_, rfl⟩, fun h j w => ?_⟩
  rw [writeOutput_outLog, writeOutput_out, lastLevel_append_singleton, get_set]
  by_cases hj : id = j
  · simp [hj]
  · simpa [hj, Ne.symm hj] using h j w

theorem clearOutputs_logged (ids : List OutId) (s : State) : Logged s (clearOutputs ids s) := by
  induction ids generalizing s with
  | nil => exact logged_of_same rfl rfl
  | cons id ids ih => exact (writeOutput_logged id false s).trans (ih _)

theorem Effect.logged {s t : State} {i : Instr} (h : Effect s i t) : Logged s t := by
  cases h with
  | periphInit => exact (clearOutputs_logged allOffOrder s).trans (logged_of_same rfl rfl)
  | microWrite place id v => exact (writeOutput_logged id v s).trans (sameBlock_complete _).logged
  | setRelay place id v => exact (writeOutput_logged id v s).trans (sameBlock_complete _).logged
  | setLed place v => exact (writeOutput_logged .led v s).trans (sameBlock_complete _).logged
  | microBlink =>
    have toggle : Logged s { s with blink := !s.blink } := logged_of_same rfl rfl
    exact (toggle.trans (writeOutput_logged .led (!s.blink) _)).trans (sameBlock_complete _).logged
  | _ => exact logged_of_same (by simp [registerTask, ticked]) (by simp [registerTask, ticked])

/-- Settles O54: every effect on the outputs is a sequence of output writes, each of which adds its event to the log. -/
theorem latchesFollowTheLog : Obligations.LatchesFollowTheLog := fun s t hs h => by
  have ⟨log, latches⟩ : Logged s t :=
    step_preorder (R := Logged) Logged.trans SameBlock.logged (fun _ _ => logged_of_same rfl rfl) Effect.logged h
  exact ⟨latches hs, log⟩

/-! ### The sequencer record (O57) -/

/-- A transition to a valid power state, which counts to no more than one of N1, N2, N3 when it counts. -/
def TransitionOk (p : Config.Params) : Transition → Prop
  | .goto q => q ≠ .invalid
  | .gotoIfEdge q => q ≠ .invalid
  | .tickPhase n q => q ≠ .invalid ∧ n ≤ max (max p.n1 p.n2) (max p.n3 1)

/-- Every transition of the sequencer's table (R159 to R168) is one of these. -/
theorem microProgram_transitionOk {p : Config.Params} {ps : PowerState} {tr : Transition}
    (h : .finish tr ∈ microProgram p ps) : TransitionOk p tr := by
  cases ps <;> simp [microProgram, allOffMicros] at h <;> subst h <;> simp [TransitionOk]

theorem gotoState_sequencerInv {q : PowerState} (hq : q ≠ .invalid) (s : State) : SequencerInv (gotoState q s) := by
  refine ⟨?_, Nat.zero_le _, Nat.two_pow_pos _⟩
  rw [gotoState_pstate, ← ofBits_ne_invalid_iff, ofBits_toBits]
  exact hq

/-- A transition of the table keeps the record's bounds: a timer that goes on is below the count it waits for. -/
theorem applyTransition_sequencerInv {s : State} {tr : Transition} (ok : TransitionOk s.params tr)
    (h : SequencerInv s) : SequencerInv (applyTransition tr s) := by
  cases tr with
  | goto q => exact gotoState_sequencerInv ok s
  | gotoIfEdge q =>
    cases edge : s.edge
    · simpa [applyTransition, edge] using h
    · simpa [applyTransition, edge] using gotoState_sequencerInv ok s
  | tickPhase n q =>
    obtain ⟨valid, bound⟩ := ok
    obtain ⟨pstate, -, -⟩ := h
    rcases tickPhase_cases n q s with ⟨-, e⟩ | ⟨below, e⟩ <;> rw [applyTransition, e]
    · exact gotoState_sequencerInv valid s
    · exact ⟨pstate, (Nat.le_of_not_le below).trans bound, wrapTo_lt _ _⟩

theorem sequencerInv_of_same {s t : State} (params : t.params = s.params) (pstate : t.pstate = s.pstate)
    (timer : t.phaseTimer = s.phaseTimer) (h : SequencerInv s) : SequencerInv t := by
  simpa only [SequencerInv, params, pstate, timer] using h

theorem SameBlock.sequencerInv {s t : State} (h : SameBlock s t) : SequencerInv s → SequencerInv t := by
  obtain ⟨_, _, _, _, _, _, rfl⟩ := h
  exact sequencerInv_of_same rfl rfl rfl

theorem Effect.sequencerInv {s t : State} {i : Instr} (h : Effect s i t) (hs : SequencerInv s) : SequencerInv t := by
  cases h with
  | microFinish _ listed =>
    exact sequencerInv_of_same rfl rfl rfl (applyTransition_sequencerInv (microProgram_transitionOk listed) hs)
  | _ => refine sequencerInv_of_same ?_ ?_ ?_ hs <;> simp [registerTask, ticked]

/-- Settles O57: only the transition that ends an invocation writes the record, and the table's transitions keep its
bounds. -/
theorem sequencerInvKept : Obligations.SequencerInvKept := fun _ _ hs h =>
  step_preorder (R := fun s t => SequencerInv s → SequencerInv t) (fun h₁ h₂ => h₂ ∘ h₁) SameBlock.sequencerInv
    (fun _ _ => sequencerInv_of_same rfl rfl rfl) Effect.sequencerInv h hs

/-! ### The fault register (O52) -/

/-- The fault register stays, or takes its first code, one of R231, with the block halted. -/
def FaultFirst (s t : State) : Prop :=
  t.fault = s.fault ∨ (s.fault = 0 ∧ 1 ≤ t.fault.toNat ∧ t.fault.toNat ≤ 0x0B ∧ t.phase = .halted)

theorem code_range {c : FaultCode} (h : c ≠ .none) : 1 ≤ c.code.toNat ∧ c.code.toNat ≤ 0x0B := by
  cases c with
  | none => exact absurd rfl h
  | _ => decide

theorem raiseFault_faultFirst {c : FaultCode} (hc : c ≠ .none) (s : State) : FaultFirst s (raiseFault c s) := by
  by_cases h : s.fault = 0
  · right
    obtain ⟨lo, hi⟩ := code_range hc
    simp [h, lo, hi]
  · exact .inl (if_neg h)

theorem Executes.faultFirst {i : Instr} {s t : State} (h : Executes i s t) : FaultFirst s t := by
  rcases h with ⟨c, hc, rfl⟩ | h
  · exact raiseFault_faultFirst hc s
  cases h with
  | tickIsrNotReady => exact raiseFault_faultFirst (c := .notReady) (by decide) { s with inIsr := true, tickCount := _ }
  | mainLoopFault _ code => exact raiseFault_faultFirst code { s with mainEntered := true }
  | _ => exact .inl (by simp [registerTask, ticked])

/-- Settles O52: the only write of the fault register is a fault's entry, and that keeps a recorded code. -/
theorem faultRegisterSticky : Obligations.FaultRegisterSticky := by
  refine ⟨fun i s t h => ?_, fun s t h => ?_⟩
  · rcases (exec_executes h).faultFirst with same | ⟨clear, lo, hi, halted⟩
    · exact ⟨fun _ => same, fun changed => absurd same changed⟩
    · exact ⟨fun set => absurd clear set, fun _ => ⟨clear, lo, hi, halted⟩⟩
  · obtain ⟨-, -, clear, v, hv, rfl⟩ := step_eq_next.1 h
    obtain ⟨u, ⟨_, _, _, _, _, _, rfl⟩, hv⟩ := agentStep_progress hv
    refine ⟨clear, fun set => ?_⟩
    have entry : v = _ ∨ FaultFirst _ v :=
      hv.imp_right (Or.elim · (fun e => Executes.faultFirst (i := .fatalHalt) (.inl e))
        fun ⟨_, e⟩ => Executes.faultFirst (.inr e))
    rcases entry with rfl | same | ⟨-, range⟩
    · exact absurd clear set
    · exact absurd (same.trans clear) set
    · exact range

/-! ### The registry (O27, O55) -/

/-- What an effect that registers nothing leaves of a slot: the slot, its due flag cleared, or the slot after one tick. -/
def Aged (w : Nat) (a b : Slot) : Prop := b = a ∨ b = { a with due := false } ∨ b = tickSlot w a

/-- The same registration: every field but the countdown and the due flag. -/
def SameTask (a b : Slot) : Prop :=
  b.cb = a.cb ∧ b.name = a.name ∧ b.initialDelay = a.initialDelay ∧ b.period = a.period

theorem SameTask.trans {a b c : Slot} (h₁ : SameTask a b) (h₂ : SameTask b c) : SameTask a c := by
  obtain ⟨cb₁, name₁, delay₁, period₁⟩ := h₁
  obtain ⟨cb₂, name₂, delay₂, period₂⟩ := h₂
  exact ⟨cb₂.trans cb₁, name₂.trans name₁, delay₂.trans delay₁, period₂.trans period₁⟩

theorem Aged.sameTask {w : Nat} {a b : Slot} (h : Aged w a b) : SameTask a b := by
  rcases h with rfl | rfl | rfl <;> simp [SameTask]

/-- A registered slot keeps R39 (a) and (b) under a tick: its countdown does not wrap, and it reloads the period at 1. -/
theorem Aged.slotOk {p : Config.Params} {a b : Slot} (h : Aged p.timeWidth a b) (ok : SlotOk p a) : SlotOk p b := by
  rcases h with rfl | rfl | rfl
  · exact ok
  · exact ok
  · obtain ⟨period, counts, bound, delayWidth, periodWidth, name⟩ := ok
    rw [tickSlot_of_countdown counts (lt_of_le_of_lt bound (max_lt delayWidth periodWidth))]
    split
    · exact ⟨period, period, le_max_right _ _, delayWidth, periodWidth, name⟩
    · refine ⟨period, ?_, ?_, delayWidth, periodWidth, name⟩ <;> dsimp only <;> omega

/-- The registry with the same registrations, each slot aged at most. -/
structure RegistryKept (s t : State) : Prop where
  params : t.params = s.params
  count : t.taskCount = s.taskCount
  sequencer : t.seqRegistered = s.seqRegistered
  ready : t.schedReady = s.schedReady
  length : t.slots.length = s.slots.length
  slots : ∀ i, Aged s.params.timeWidth (s.slotAt i) (t.slotAt i)

theorem registryKept_of_same {s t : State} (params : t.params = s.params) (count : t.taskCount = s.taskCount)
    (sequencer : t.seqRegistered = s.seqRegistered) (ready : t.schedReady = s.schedReady) (slots : t.slots = s.slots) :
    RegistryKept s t :=
  ⟨params, count, sequencer, ready, congrArg List.length slots, fun i => .inl (slotAt_congr slots i)⟩

theorem registryKept_of_tick {s t : State} (params : t.params = s.params) (count : t.taskCount = s.taskCount)
    (sequencer : t.seqRegistered = s.seqRegistered) (ready : t.schedReady = s.schedReady)
    (slots : t.slots = tickSlots s.params.timeWidth s.taskCount.toNat s.slots) : RegistryKept s t := by
  refine ⟨params, count, sequencer, ready, by rw [slots, tickSlots_length], fun i => ?_⟩
  rw [slotAt_tick slots]
  split
  · exact .inr (.inr rfl)
  · exact .inl rfl

theorem clearDue_registryKept (n : Nat) (s : State) : RegistryKept s (clearDue n s) := by
  refine ⟨rfl, rfl, rfl, rfl, by simp, fun i => ?_⟩
  rw [slotAt_clearDue]
  split
  · next h => exact .inr (.inl (h ▸ rfl))
  · exact .inl rfl

theorem SameBlock.registryKept {s t : State} (h : SameBlock s t) : RegistryKept s t := by
  obtain ⟨_, _, _, _, _, _, rfl⟩ := h
  exact registryKept_of_same rfl rfl rfl rfl rfl

theorem raiseFault_registryKept (c : FaultCode) (s : State) : RegistryKept s (raiseFault c s) :=
  registryKept_of_same rfl rfl rfl rfl rfl

/-- What SCHED_ADD_TASK has checked when it registers a task. -/
def Registrable (cb : Byte) (per : Half) (s : State) : Prop :=
  s.schedReady = true ∧ per ≠ 0 ∧ (isSequencer cb = true → s.seqRegistered = false) ∧ s.taskCount ≠ s.params.maxTasks

/-- Before MAIN_LOOP an operation may empty the registry or add one task to it; every other effect keeps it. -/
theorem Effect.registry {s t : State} {i : Instr} (h : Effect s i t) :
    RegistryKept s t ∨ (s.mainEntered = false ∧
      (t = nextWord { s with taskCount := 0, seqRegistered := false, schedReady := true } ∨
        ∃ cb dly per name, Registrable cb per s ∧ t = nextWord (registerTask cb dly per name s))) := by
  cases h with
  | schedInit _ early => exact .inr ⟨early, .inl rfl⟩
  | schedAddTask _ ready early period single room =>
    exact .inr ⟨early, .inr ⟨_, _, _, _, ⟨ready, period, single, room⟩, rfl⟩⟩
  | schedDispatchSlot =>
    obtain ⟨params, count, sequencer, ready, length, slots⟩ := clearDue_registryKept _ s
    exact .inl ⟨params, count, sequencer, ready, length, slots⟩
  | schedTick => exact .inl (registryKept_of_tick rfl rfl rfl rfl rfl)
  | tickIsr => exact .inl (registryKept_of_tick rfl rfl rfl rfl rfl)
  | _ => refine .inl (registryKept_of_same ?_ ?_ ?_ ?_ ?_) <;> simp

/-- Once MAIN_LOOP is entered it stays so, with the same registrations. -/
def RegistrationFrozen (s t : State) : Prop :=
  s.mainEntered = true → t.mainEntered = true ∧ t.taskCount = s.taskCount ∧ t.seqRegistered = s.seqRegistered ∧
    ∀ i, SameTask (s.slotAt i) (t.slotAt i)

theorem RegistrationFrozen.trans {s t u : State} (h₁ : RegistrationFrozen s t) (h₂ : RegistrationFrozen t u) :
    RegistrationFrozen s u := fun entered => by
  obtain ⟨entered₁, count₁, sequencer₁, slots₁⟩ := h₁ entered
  obtain ⟨entered₂, count₂, sequencer₂, slots₂⟩ := h₂ entered₁
  exact ⟨entered₂, count₂.trans count₁, sequencer₂.trans sequencer₁, fun i => (slots₁ i).trans (slots₂ i)⟩

theorem RegistryKept.frozen {s t : State} (h : RegistryKept s t) (kept : ReadinessKept s t) : RegistrationFrozen s t := by
  obtain ⟨-, -, -, -, entered, -⟩ := kept
  exact fun main => ⟨entered main, h.count, h.sequencer, fun i => (h.slots i).sameTask⟩

theorem Effect.registrationFrozen {s t : State} {i : Instr} (h : Effect s i t) : RegistrationFrozen s t := by
  rcases h.registry with kept | ⟨early, -⟩
  · exact kept.frozen h.readinessKept
  · exact fun main => absurd main (by simp [early])

/-- Settles O27: after MAIN_LOOP the two operations that register are refused, and the other effects only age a slot. -/
theorem registrationFrozenAfterMain : Obligations.RegistrationFrozenAfterMain := fun s t main h => by
  have frozen : RegistrationFrozen s t :=
    step_preorder (R := RegistrationFrozen) RegistrationFrozen.trans
      (fun same => same.registryKept.frozen same.readinessKept)
      (fun c s => (raiseFault_registryKept c s).frozen (raiseFault_readinessKept c s))
      Effect.registrationFrozen h
  obtain ⟨-, count, sequencer, slots⟩ := frozen main
  exact ⟨count, sequencer, slots⟩

theorem RegistryKept.inv {s t : State} (h : RegistryKept s t) (inv : RegistryInv s) : RegistryInv t := by
  have cb : ∀ i, (t.slotAt i).cb = (s.slotAt i).cb := fun i => (h.slots i).sameTask.1
  exact
    { time_width := h.params ▸ inv.time_width
      length := by rw [h.length, h.params, inv.length]
      count_le := by rw [h.count, h.params]; exact inv.count_le
      slots_ok := fun i hi => by
        rw [h.params]
        exact (h.slots i).slotOk (inv.slots_ok i (h.count ▸ hi))
      seq_iff := by simpa only [h.sequencer, h.count, cb] using inv.seq_iff
      seq_unique := by simpa only [h.count, cb] using inv.seq_unique
      before_init := by simpa only [h.ready, h.count] using inv.before_init }

theorem schedInit_registryInv {s : State} (inv : RegistryInv s) :
    RegistryInv (nextWord { s with taskCount := 0, seqRegistered := false, schedReady := true }) where
  time_width := inv.time_width
  length := inv.length
  count_le := Nat.zero_le _
  slots_ok := by simp
  seq_iff := by simp
  seq_unique := by simp
  before_init := by simp

/-- The Task Descriptor that SCHED_ADD_TASK writes meets R39 (a) and (b). -/
theorem newSlot_slotOk {p : Config.Params} (width : 16 ≤ p.timeWidth) (cb : Byte) (dly name : Half) {per : Half}
    (period : per ≠ 0) : SlotOk p (newSlot p cb dly per name) := by
  have perPos : 1 ≤ per.toNat := by
    rw [Nat.one_le_iff_ne_zero]
    exact fun h => period (BitVec.eq_of_toNat_eq h)
  have countdown : (newSlot p cb dly per name).countdown = if dly = 0 then per.toNat else dly.toNat := by
    by_cases h : dly = 0#16 <;> simp [newSlot, h, wrapTo_half width]
  refine ⟨?_, ?_, ?_, wrapTo_lt _ _, wrapTo_lt _ _, wrapTo_lt _ _⟩
  · simpa [newSlot, wrapTo_half width] using perPos
  · rw [countdown]
    split
    · exact perPos
    · next h => exact Nat.one_le_iff_ne_zero.2 fun h₀ => h (BitVec.eq_of_toNat_eq h₀)
  · rw [countdown]
    split <;> simp [newSlot, wrapTo_half width]

/-- A registration writes the first free slot. -/
theorem slotAt_registerTask {s : State} (cb : Byte) (dly per name : Half) (room : s.taskCount.toNat < s.slots.length)
    (i : Nat) :
    (registerTask cb dly per name s).slotAt i =
      if i = s.taskCount.toNat then newSlot s.params cb dly per name else s.slotAt i := by
  split
  · next h => exact h ▸ slotAt_setSlot_same _ room
  · next h => exact slotAt_setSlot_ne _ h

theorem registerTask_registryInv {s : State} {cb : Byte} (dly name : Half) {per : Half} (inv : RegistryInv s)
    (ok : Registrable cb per s) : RegistryInv (nextWord (registerTask cb dly per name s)) := by
  obtain ⟨ready, period, single, notFull⟩ := ok
  have room : s.taskCount.toNat < s.params.maxTasks.toNat :=
    lt_of_le_of_ne inv.count_le fun h => notFull (BitVec.eq_of_toNat_eq h)
  have count : (s.taskCount + 1).toNat = s.taskCount.toNat + 1 := by
    have := s.params.maxTasks.isLt
    rw [BitVec.toNat_add, show (1 : Byte).toNat = 1 from rfl, Nat.mod_eq_of_lt (by omega)]
  have slot : ∀ i, (nextWord (registerTask cb dly per name s)).slotAt i =
      if i = s.taskCount.toNat then newSlot s.params cb dly per name else s.slotAt i :=
    slotAt_registerTask cb dly per name (inv.length ▸ room)
  have old : ∀ i, i < s.taskCount.toNat → (nextWord (registerTask cb dly per name s)).slotAt i = s.slotAt i :=
    fun i hi => by rw [slot, if_neg hi.ne]
  have new : (nextWord (registerTask cb dly per name s)).slotAt s.taskCount.toNat =
      newSlot s.params cb dly per name := by rw [slot, if_pos rfl]
  have split : ∀ i, i < (s.taskCount + 1).toNat → i < s.taskCount.toNat ∨ i = s.taskCount.toNat := fun i hi =>
    Nat.lt_succ_iff_lt_or_eq.1 (lt_of_lt_of_eq hi count)
  have unique : ∀ i, i < s.taskCount.toNat → isSequencer (s.slotAt i).cb = true → isSequencer cb = false :=
    fun i hi hseq => by
      have registered := inv.seq_iff.2 ⟨i, hi, hseq⟩
      cases h : isSequencer cb
      · rfl
      · exact absurd registered (by simp [single h])
  refine
    { time_width := inv.time_width
      length := by simpa [registerTask] using inv.length
      count_le := count ▸ room
      slots_ok := fun i hi => ?_
      seq_iff := ?_
      seq_unique := fun i j hi hj seqi seqj => ?_
      before_init := fun h => absurd ready (by simpa [registerTask] using h) }
  · rcases split i hi with hi | rfl
    · rw [old i hi]
      exact inv.slots_ok i hi
    · rw [new]
      exact newSlot_slotOk inv.time_width cb dly name period
  · have counted : (∃ i, i < (s.taskCount + 1).toNat ∧
        isSequencer ((nextWord (registerTask cb dly per name s)).slotAt i).cb = true) ↔
        (∃ i, i < s.taskCount.toNat ∧ isSequencer (s.slotAt i).cb = true) ∨ isSequencer cb = true := by
      rw [count, Nat.exists_lt_succ_right, new]
      exact or_congr_left (exists_congr fun i => and_congr_right fun hi => by rw [old i hi])
    exact (by simp [registerTask, inv.seq_iff, or_comm] : _ ↔ _).trans counted.symm
  · rcases split i hi with hi | rfl <;> rcases split j hj with hj | rfl
    · rw [old i hi] at seqi
      rw [old j hj] at seqj
      exact inv.seq_unique i j hi hj seqi seqj
    · rw [old i hi] at seqi
      rw [new] at seqj
      exact absurd seqj (by simp [newSlot, unique i hi seqi])
    · rw [old j hj] at seqj
      rw [new] at seqi
      exact absurd seqi (by simp [newSlot, unique j hj seqj])
    · rfl

theorem Effect.registryInv {s t : State} {i : Instr} (h : Effect s i t) (inv : RegistryInv s) : RegistryInv t := by
  rcases h.registry with kept | ⟨-, rfl | ⟨cb, dly, per, name, ok, rfl⟩⟩
  · exact kept.inv inv
  · exact schedInit_registryInv inv
  · exact registerTask_registryInv dly name inv ok

/-- Settles O55: SCHED_INIT empties the registry, SCHED_ADD_TASK adds one well-formed slot to it, and every other effect
keeps the registrations and their bounds. -/
theorem registryInvKept : Obligations.RegistryInvKept := fun _ _ inv h =>
  step_preorder (R := fun s t => RegistryInv s → RegistryInv t) (fun h₁ h₂ => h₂ ∘ h₁)
    (fun same => same.registryKept.inv) (fun c s => (raiseFault_registryKept c s).inv)
    Effect.registryInv h inv

/-! ### The control state (O56) -/

/-- A boot operation in progress stands before the program's last word. -/
def BeforeLast (s : State) : Prop := s.mainEntered = false → s.pc.toNat + 1 < s.program.length

/-- The control invariants that do not read the phase. -/
structure ControlCore (s : State) : Prop where
  program_wf : programWf s.program = true
  pc_lt : s.pc.toNat < s.program.length
  tick_width : s.tickCount < 2 ^ s.params.tickWidth
  delay_width : s.delayStart < 2 ^ s.params.tickWidth
  main_word : s.mainEntered = true → s.fetchWord = some mainLoopWord

/-- What the control invariants say of a block that runs, by its phase. -/
def PhaseInv (s : State) : Phase → Prop
  | .boot =>
    (s.inDispatch = true → s.passIndex = 0 ∧ s.hold = .none ∧ BeforeLast s) ∧
      (s.inDispatch = false → s.mainEntered = false ∧ (s.hold ≠ .none → BeforeLast s))
  | .dispatch i =>
    s.inDispatch = true ∧ s.hold = .none ∧ (s.passIndex = i ∨ s.passIndex = i + 1) ∧
      s.passIndex ≤ s.taskCount.toNat ∧ BeforeLast s
  | .inCallback i _ =>
    s.inDispatch = true ∧ i < s.taskCount.toNat ∧ s.passIndex = i + 1 ∧ s.hold ≠ .waitIrq ∧ BeforeLast s
  | .wait =>
    s.mainEntered = true ∧ (s.inDispatch = true → s.passIndex = 0 ∧ s.hold = .none) ∧ ∀ ms, s.hold ≠ .delay ms
  | .halted => False

theorem controlInv_core {s : State} (h : ControlInv s) : ControlCore s :=
  ⟨h.program_wf, h.pc_lt, h.tick_width, h.delay_width, h.main_word⟩

theorem controlInv_phaseInv {s : State} (h : ControlInv s) (running : s.phase ≠ .halted) : PhaseInv s s.phase := by
  have op := fun place entered => h.boot_op entered running place
  cases phase : s.phase with
  | boot =>
    refine ⟨fun pass => ?_, fun idle => ⟨h.boot phase idle, fun hold => op (.inr (.inr hold))⟩⟩
    obtain ⟨index, hold⟩ := h.pass_start pass (.inl phase)
    exact ⟨index, hold, op (.inr (.inl pass))⟩
  | dispatch i =>
    obtain ⟨pass, hold, index, le⟩ := h.dispatch i phase
    exact ⟨pass, hold, index, le, op (.inl (by simp [phase]))⟩
  | inCallback i k =>
    obtain ⟨pass, lt, index⟩ := h.callback i k phase
    exact ⟨pass, lt, index, fun hw => by simpa [phase] using h.hold_wait hw, op (.inl (by simp [phase]))⟩
  | wait =>
    exact ⟨h.wait phase, fun pass => h.pass_start pass (.inr phase), fun ms hd => by
      simpa [phase] using h.hold_delay ms hd⟩
  | halted => exact running phase

theorem controlInv_inIsr {s : State} (h : ControlInv s) (running : s.phase ≠ .halted) : s.inIsr = false := by
  cases hi : s.inIsr
  · rfl
  · exact absurd (h.in_isr hi) running

theorem PhaseInv.beforeLast {s : State} {p : Phase} (h : PhaseInv s p)
    (place : p ≠ .boot ∨ s.inDispatch = true ∨ s.hold ≠ .none) : BeforeLast s := by
  cases p with
  | boot =>
    obtain ⟨pass, idle⟩ := h
    cases hd : s.inDispatch
    · exact (idle hd).2 (by simpa [hd] using place)
    · obtain ⟨-, -, before⟩ := pass hd
      exact before
  | dispatch i =>
    obtain ⟨-, -, -, -, before⟩ := h
    exact before
  | inCallback i k =>
    obtain ⟨-, -, -, -, before⟩ := h
    exact before
  | wait => exact fun entered => absurd h.1 (by simp [entered])
  | halted => exact h.elim

theorem controlInv_of_halted {s : State} (core : ControlCore s) (phase : s.phase = .halted) (fault : s.fault ≠ 0) :
    ControlInv s := by
  obtain ⟨wf, pc, tick, delay, main⟩ := core
  constructor <;> simp_all

theorem controlInv_of_running {s : State} (core : ControlCore s) (fault : s.fault = 0) (isr : s.inIsr = false)
    (h : PhaseInv s s.phase) : ControlInv s := by
  obtain ⟨wf, pc, tick, delay, main⟩ := core
  have at_phase : ∀ {p}, s.phase = p → PhaseInv s p := fun hp => hp ▸ h
  refine
    { program_wf := wf, pc_lt := pc, tick_width := tick, delay_width := delay, main_word := main
      fault_iff := iff_of_true fault at_phase
      in_isr := by simp [isr]
      dispatch := fun i hp => ?_
      callback := fun i k hp => ?_
      pass_start := fun pass hp => ?_
      boot := fun hp idle => ((at_phase hp).2 idle).1
      wait := fun hp => (at_phase hp).1
      hold_delay := fun ms hd => ?_
      hold_wait := fun hw => ?_
      boot_op := fun entered _ place => h.beforeLast place entered }
  · obtain ⟨pass, hold, index, le, -⟩ := at_phase hp
    exact ⟨pass, hold, index, le⟩
  · obtain ⟨pass, lt, index, -, -⟩ := at_phase hp
    exact ⟨pass, lt, index⟩
  · rcases hp with hp | hp
    · obtain ⟨index, hold, -⟩ := (at_phase hp).1 pass
      exact ⟨index, hold⟩
    · exact (at_phase hp).2.1 pass
  · cases phase : s.phase <;> simp [phase, PhaseInv, hd] at h ⊢
  · cases phase : s.phase <;> simp [phase, PhaseInv, hw] at h ⊢

/-- The two states agree in the control state, but that the count and the delay's start may be written within their width,
`in_isr` cleared, and the task count written by a boot word, where no pass reads it. -/
structure SameControl (s t : State) : Prop where
  program : t.program = s.program
  params : t.params = s.params
  pc : t.pc = s.pc
  phase : t.phase = s.phase
  inDispatch : t.inDispatch = s.inDispatch
  passIndex : t.passIndex = s.passIndex
  inIsr : t.inIsr = false ∨ t.inIsr = s.inIsr
  mainEntered : t.mainEntered = s.mainEntered
  tick : s.tickCount < 2 ^ s.params.tickWidth → t.tickCount < 2 ^ s.params.tickWidth
  delay : s.tickCount < 2 ^ s.params.tickWidth → s.delayStart < 2 ^ s.params.tickWidth →
    t.delayStart < 2 ^ s.params.tickWidth
  hold : t.hold = s.hold
  fault : t.fault = s.fault
  count : s.phase = .boot ∨ t.taskCount = s.taskCount

theorem SameControl.inv {s t : State} (h : SameControl s t) (hs : ControlInv s) : ControlInv t := by
  obtain ⟨wf, pc, tick, delay, main⟩ := controlInv_core hs
  have core : ControlCore t :=
    { program_wf := h.program ▸ wf
      pc_lt := by rw [h.pc, h.program]; exact pc
      tick_width := h.params ▸ h.tick tick
      delay_width := h.params ▸ h.delay tick delay
      main_word := by simpa only [State.fetchWord, h.program, h.pc, h.mainEntered] using main }
  by_cases halted : s.phase = .halted
  · exact controlInv_of_halted core (h.phase.trans halted) fun hf => hs.fault_iff.1 (h.fault ▸ hf) halted
  · refine controlInv_of_running core (h.fault.trans (hs.fault_iff.2 halted))
      (h.inIsr.elim id fun e => e.trans (controlInv_inIsr hs halted)) ?_
    have place := controlInv_phaseInv hs halted
    rw [h.phase]
    rcases h.count with boot | count
    · rw [boot] at place ⊢
      simpa only [PhaseInv, BeforeLast, h.program, h.pc, h.inDispatch, h.passIndex, h.mainEntered, h.hold] using place
    · cases phase : s.phase with
      | halted => exact absurd phase halted
      | _ =>
        simpa only [phase, PhaseInv, BeforeLast, h.program, h.pc, h.inDispatch, h.passIndex, h.mainEntered, h.hold,
          count] using place

/-- The task context may issue an operation: it holds nothing, stands outside a pass or inside one but not at its first
interrupt point, and a boot word that it issues is not the last one. -/
structure Ready (s : State) : Prop where
  running : s.phase ≠ .halted
  idle : s.hold = .none
  outside : s.phase = .boot ∨ s.phase = .wait → s.inDispatch = false
  before : s.phase = .boot → s.pc.toNat + 1 < s.program.length

theorem SameControl.ready {s t : State} (h : SameControl s t) (ready : Ready s) : Ready t := by
  obtain ⟨running, idle, outside, before⟩ := ready
  constructor <;> simpa only [h.phase, h.hold, h.inDispatch, h.pc, h.program]

/-- `pc` advances inside the program before MAIN_LOOP (R24, R217). -/
theorem ControlCore.advance {s : State} (core : ControlCore s) (early : s.mainEntered = false)
    (before : s.pc.toNat + 1 < s.program.length) : ControlCore { s with pc := s.pc + 1 } := by
  have len : s.program.length ≤ 65535 := by
    have wf := core.program_wf
    simp only [programWf, Bool.and_eq_true, decide_eq_true_eq] at wf
    obtain ⟨⟨-, len⟩, -⟩ := wf
    exact len
  have next : (s.pc + 1).toNat = s.pc.toNat + 1 := by
    rw [BitVec.toNat_add, show (1 : Half).toNat = 1 from rfl, Nat.mod_eq_of_lt (by omega)]
  exact ⟨core.program_wf, next ▸ before, core.tick_width, core.delay_width, fun entered => by simp [early] at entered⟩

theorem complete_controlInv {s : State} (hs : ControlInv s) (ready : Ready s) (place : Completing s) :
    ControlInv (complete s) := by
  have fault := hs.fault_iff.2 ready.running
  have isr := controlInv_inIsr hs ready.running
  have inv := controlInv_phaseInv hs ready.running
  rcases place with boot | ⟨i, k, callback⟩
  · have early := hs.boot boot (ready.outside (.inl boot))
    rw [complete_boot boot]
    refine controlInv_of_running ((controlInv_core hs).advance early (ready.before boot)) fault isr ?_
    simp [boot, PhaseInv, ready.outside (.inl boot), early, ready.idle]
  · rw [complete_callback callback]
    rw [callback] at inv
    obtain ⟨wf, pc, tick, delay, main⟩ := controlInv_core hs
    exact controlInv_of_running ⟨wf, pc, tick, delay, main⟩ fault isr inv

/-- An operation that leaves the control state and then completes. -/
theorem completing_controlInv {s u : State} (hs : ControlInv s) (ready : Ready s) (place : Completing s)
    (same : SameControl s u) : ControlInv (complete u) :=
  complete_controlInv (same.inv hs) (same.ready ready) (by simpa only [Completing, same.phase] using place)

/-- The same for an operation of the boot program alone. -/
theorem nextWord_controlInv {s u : State} (hs : ControlInv s) (ready : Ready s) (boot : s.phase = .boot)
    (same : SameControl s u) : ControlInv (nextWord u) := by
  rw [nextWord, ← complete_boot (same.phase.trans boot)]
  exact completing_controlInv hs ready (.inl boot) same

theorem startDelay_controlInv {s : State} (ms : Nat) (hs : ControlInv s) (ready : Ready s) (place : Completing s) :
    ControlInv (startDelay ms s) := by
  have fault := hs.fault_iff.2 ready.running
  have isr := controlInv_inIsr hs ready.running
  rcases startDelay_cases ms s with ⟨-, e⟩ | ⟨-, e⟩ <;> rw [e]
  · exact completing_controlInv hs ready place (by constructor <;> simp +contextual)
  · obtain ⟨wf, pc, tick, -, main⟩ := controlInv_core hs
    refine controlInv_of_running ⟨wf, pc, tick, tick, main⟩ fault isr ?_
    rcases place with boot | ⟨i, k, callback⟩
    · have outside := ready.outside (.inl boot)
      simp [boot, PhaseInv, outside, hs.boot boot outside, BeforeLast, ready.before boot]
    · have inv := controlInv_phaseInv hs ready.running
      rw [callback] at inv
      obtain ⟨pass, lt, index, -, last⟩ := inv
      rw [callback]
      exact ⟨pass, lt, index, by simp, last⟩

theorem startWait_controlInv {s : State} (hs : ControlInv s) (ready : Ready s)
    (place : s.phase = .boot ∨ s.phase = .wait) : ControlInv (startWait s) := by
  obtain ⟨wf, pc, tick, delay, main⟩ := controlInv_core hs
  have fault := hs.fault_iff.2 ready.running
  have isr := controlInv_inIsr hs ready.running
  refine controlInv_of_running ⟨wf, pc, tick, delay, main⟩ fault isr ?_
  have outside := ready.outside place
  rcases place with boot | wait
  · simp [startWait, boot, PhaseInv, outside, hs.boot boot outside, BeforeLast, ready.before boot]
  · simp [startWait, wait, PhaseInv, outside, hs.wait wait]

/-- A callback returns to the pass it runs in. -/
theorem returnFromCallback_controlInv {s u : State} {i k : Nat} (hs : ControlInv s) (idle : s.hold = .none)
    (callback : s.phase = .inCallback i k) (same : SameControl s u) : ControlInv (returnFromCallback i u) := by
  have hu := same.inv hs
  have phase : u.phase = .inCallback i k := same.phase.trans callback
  have running : u.phase ≠ .halted := by simp [phase]
  obtain ⟨wf, pc, tick, delay, main⟩ := controlInv_core hu
  have inv := controlInv_phaseInv hu running
  rw [phase] at inv
  obtain ⟨pass, lt, index, -, last⟩ := inv
  have isr := controlInv_inIsr hu running
  refine controlInv_of_running ⟨wf, pc, tick, delay, main⟩ (hu.fault_iff.2 running) isr ?_
  exact ⟨pass, same.hold.trans idle, .inl index, index ▸ lt, last⟩

/-- A pass starts from a boot word or from the main loop. -/
theorem schedDispatch_controlInv {s t : State} (hs : ControlInv s) (ready : Ready s)
    (h : Effect s .schedDispatch t) : ControlInv t := by
  cases h with
  | schedDispatch outside idle =>
  obtain ⟨wf, pc, tick, delay, main⟩ := controlInv_core hs
  have fault := hs.fault_iff.2 ready.running
  have isr := controlInv_inIsr hs ready.running
  refine controlInv_of_running ⟨wf, pc, tick, delay, main⟩ fault isr ?_
  cases phase : s.phase with
  | boot => simp [PhaseInv, ready.idle, BeforeLast, ready.before phase]
  | dispatch i =>
    obtain ⟨pass, -⟩ := hs.dispatch i phase
    simp [pass] at idle
  | inCallback i k => simp [phase, Phase.isCallback] at outside
  | wait => simp [PhaseInv, ready.idle, hs.wait phase]
  | halted => exact absurd phase ready.running

theorem raiseFault_controlInv {s : State} {c : FaultCode} (core : ControlCore s) (hc : c ≠ .none) :
    ControlInv (raiseFault c s) := by
  obtain ⟨wf, pc, tick, delay, main⟩ := core
  refine controlInv_of_halted ⟨wf, pc, tick, delay, main⟩ rfl fun clear => ?_
  rw [raiseFault_fault] at clear
  split at clear
  · obtain ⟨lo, -⟩ := code_range hc
    simp [clear] at lo
  · contradiction

/-- MAIN_LOOP's step, at its own word: the phase stays BOOT, and `in_dispatch` marks the first pass (log entry 11). -/
theorem mainLoop_controlInv {s t : State} (hs : ControlInv s) (idle : s.hold = .none)
    (word : s.fetchWord = some mainLoopWord) (h : Effect s .mainLoop t) : ControlInv t := by
  obtain ⟨wf, pc, tick, delay, -⟩ := controlInv_core hs
  cases h with
  | mainLoop boot =>
    have running : s.phase ≠ .halted := by simp [boot]
    have isr := controlInv_inIsr hs running
    refine controlInv_of_running ⟨wf, pc, tick, delay, fun _ => word⟩ (hs.fault_iff.2 running) isr ?_
    simp [boot, PhaseInv, idle, BeforeLast]
  | mainLoopFault boot code => exact raiseFault_controlInv ⟨wf, pc, tick, delay, fun _ => word⟩ code

theorem timerFire_controlInv {s t : State} (hs : ControlInv s) (h : Effect s .timerFire t) : ControlInv t := by
  cases h with
  | timerFire pending => exact SameControl.inv (by constructor <;> simp) hs

theorem tickIsr_controlInv {s t : State} (hs : ControlInv s) (h : Effect s .tickIsr t) : ControlInv t := by
  obtain ⟨wf, pc, -, delay, main⟩ := controlInv_core hs
  cases h with
  | tickIsrIdle => exact hs
  | tickIsrNotReady => exact raiseFault_controlInv ⟨wf, pc, wrapTo_lt _ _, delay, main⟩ (by decide)
  | tickIsr =>
    have same : SameControl s (ticked s) :=
      ⟨rfl, rfl, rfl, rfl, rfl, rfl, .inl rfl, rfl, fun _ => wrapTo_lt _ _, fun _ => id, rfl, rfl, .inr rfl⟩
    exact same.inv hs

/-- SCHED_DISPATCH_SLOT of the slot that the pass has reached: its callback is called, or the pass stays. -/
theorem schedDispatchSlot_controlInv {s t : State} {slot : Byte} (hs : ControlInv s)
    (index : s.passIndex = slot.toNat + 1) (h : Effect s (.schedDispatchSlot slot) t) : ControlInv t := by
  cases h with
  | schedDispatchSlot inside registered =>
  by_cases due : (s.slotAt slot.toNat).due = true
  · obtain ⟨j, dispatch⟩ := inside
    have running : s.phase ≠ .halted := by simp [dispatch]
    have isr := controlInv_inIsr hs running
    obtain ⟨wf, pc, tick, delay, main⟩ := controlInv_core hs
    have inv := controlInv_phaseInv hs running
    rw [dispatch] at inv
    obtain ⟨pass, hold, -, -, last⟩ := inv
    refine controlInv_of_running ⟨wf, pc, tick, delay, main⟩ (hs.fault_iff.2 running) isr ?_
    rw [if_pos due]
    exact ⟨pass, registered, index, by simp [hold], last⟩
  · exact SameControl.inv (by constructor <;> simp [due]) hs

/-- An operation that the task context issues outside the loop of a pass, and that is not MAIN_LOOP, keeps the
invariants. -/
theorem Effect.controlInv {s t : State} {i : Instr} (h : Effect s i t) (hs : ControlInv s) (ready : Ready s)
    (notMain : i ≠ .mainLoop) (notSlot : ∀ slot, i ≠ .schedDispatchSlot slot) : ControlInv t := by
  cases h with
  | schedInit boot =>
    exact nextWord_controlInv hs ready boot (by constructor <;> simp [boot])
  | schedAddTask boot =>
    exact nextWord_controlInv hs ready boot (by constructor <;> simp [boot, registerTask])
  | periphInit boot =>
    exact nextWord_controlInv hs ready boot (by constructor <;> simp)
  | irqDisable boot =>
    exact nextWord_controlInv hs ready boot (by constructor <;> simp)
  | irqEnable boot =>
    exact nextWord_controlInv hs ready boot (by constructor <;> simp)
  | schedDispatch outside idle => exact schedDispatch_controlInv hs ready (.schedDispatch outside idle)
  | schedDispatchSlot => exact absurd rfl (notSlot _)
  | mainLoop => exact absurd rfl notMain
  | mainLoopFault => exact absurd rfl notMain
  | schedTick => exact SameControl.inv (by constructor <;> simp) hs
  | timerFire pending => exact timerFire_controlInv hs (.timerFire pending)
  | tickIsrIdle => exact hs
  | tickIsr => exact tickIsr_controlInv hs .tickIsr
  | tickIsrNotReady => exact tickIsr_controlInv hs .tickIsrNotReady
  | waitIrq place => exact startWait_controlInv hs ready place
  | microSettle place => exact startDelay_controlInv _ hs ready place
  | delayMs place => exact startDelay_controlInv _ hs ready place
  | microFinish place => exact returnFromCallback_controlInv hs ready.idle place (by constructor <;> simp)
  | microEnd place => exact returnFromCallback_controlInv hs ready.idle place (by constructor <;> simp)
  | sample place => exact completing_controlInv hs ready place (by constructor <;> simp)
  | microWrite place => exact completing_controlInv hs ready place (by constructor <;> simp)
  | microBlink place => exact completing_controlInv hs ready place (by constructor <;> simp)
  | readButton place => exact completing_controlInv hs ready place (by constructor <;> simp)
  | setRelay place => exact completing_controlInv hs ready place (by constructor <;> simp)
  | setLed place => exact completing_controlInv hs ready place (by constructor <;> simp)
  | getTicks place => exact completing_controlInv hs ready place (by constructor <;> simp)

/-! ### The control state across a step of each agent (O56) -/

/-- Letting go of a hold weakens nothing that the invariants say. -/
theorem release_controlInv {s : State} (hs : ControlInv s) : ControlInv { s with hold := .none } :=
  { hs with
    dispatch := fun i hp => by
      obtain ⟨pass, -, index, le⟩ := hs.dispatch i hp
      exact ⟨pass, rfl, index, le⟩
    pass_start := fun pass hp => by
      obtain ⟨index, -⟩ := hs.pass_start pass hp
      exact ⟨index, rfl⟩
    hold_delay := by simp
    hold_wait := by simp
    boot_op := fun entered running place =>
      hs.boot_op entered running (place.imp_right (Or.imp_right fun h => absurd rfl h)) }

/-- A hold stands outside the first interrupt point of a pass, and a boot word that holds is not the last one. -/
theorem ready_of_hold {s : State} (hs : ControlInv s) (running : s.phase ≠ .halted) (hold : s.hold ≠ .none) :
    Ready { s with hold := .none } := by
  have outside : s.phase = .boot ∨ s.phase = .wait → s.inDispatch = false := fun hp => by
    cases pass : s.inDispatch
    · rfl
    · obtain ⟨-, idle⟩ := hs.pass_start pass hp
      exact absurd idle hold
  exact ⟨running, rfl, outside, fun boot =>
    hs.boot_op (hs.boot boot (outside (.inl boot))) running (.inr (.inr hold))⟩

theorem endHold_controlInv {s : State} (hs : ControlInv s) (running : s.phase ≠ .halted) (hold : s.hold ≠ .none)
    (place : Completing s) : ControlInv (endHold s) :=
  complete_controlInv (release_controlInv hs) (ready_of_hold hs running hold) place

/-- An operation keeps the invariants when its effect does: a fault halts the block. -/
theorem executes_controlInv {i : Instr} {s t : State} (hs : ControlInv s) (h : exec i s = .next t)
    (effect : Effect s i t → ControlInv t) : ControlInv t := by
  rcases exec_executes h with ⟨c, code, rfl⟩ | h
  · exact raiseFault_controlInv (controlInv_core hs) code
  · exact effect h

/-- The word that the last index of a program holds (R217). -/
theorem fetchWord_last {s : State} {w : OpWord} (wf : programWf s.program = true) (fetch : s.fetchWord = some w)
    (last : ¬ s.pc.toNat + 1 < s.program.length) : w = mainLoopWord ∨ w = fatalHaltWord := by
  have lt := (List.getElem?_eq_some_iff.1 fetch).1
  have fetch : s.program.getLast? = some w := by
    rw [List.getLast?_eq_getElem?, ← fetch, State.fetchWord, show s.program.length - 1 = s.pc.toNat by omega]
  simp only [programWf, endsProperly, fetch, Bool.and_eq_true, Bool.or_eq_true, beq_iff_eq, Option.some.injEq] at wf
  exact wf.2

/-- Only its own word decodes to MAIN_LOOP. -/
theorem decode_eq_mainLoop {w : OpWord} (h : decode w = some .mainLoop) : w = mainLoopWord := by
  unfold decode at h
  split at h <;> simp [formatZ, formatT, formatS, formatR, formatL, formatD] at h
  next op =>
    have op : w.toNat >>> 56 % 2 ^ 8 = 20 := by simpa [opcode, bits] using op
    have rest : w.toNat % 2 ^ 56 = 0 := by simpa [bits] using congrArg BitVec.toNat h
    rw [Nat.shiftRight_eq_div_pow] at op
    exact BitVec.eq_of_toNat_eq (show w.toNat = 20 * 2 ^ 56 by omega)

theorem fetchStep_controlInv {s t : State} (hs : ControlInv s) (boot : s.phase = .boot) (outside : s.inDispatch = false)
    (idle : s.hold = .none) (h : fetchStep s = .next t) : ControlInv t := by
  obtain ⟨w, fetch, ⟨-, rfl⟩ | ⟨i, decoded, h⟩⟩ := fetchStep_eq_next.1 h
  · exact raiseFault_controlInv (controlInv_core hs) (by decide)
  refine executes_controlInv hs h fun effect => ?_
  by_cases main : i = .mainLoop
  · subst main
    obtain rfl := decode_eq_mainLoop decoded
    exact mainLoop_controlInv hs idle fetch effect
  by_cases before : s.pc.toNat + 1 < s.program.length
  · refine effect.controlInv hs ⟨by simp [boot], idle, fun _ => outside, fun _ => before⟩ main ?_
    rintro slot rfl
    cases effect with
    | schedDispatchSlot inside => simp [boot] at inside
  · rcases fetchWord_last hs.program_wf fetch before with rfl | rfl
    · exact absurd (Option.some.inj (decoded.symm.trans (by decide))) main
    · obtain rfl : i = .fatalHalt := Option.some.inj (decoded.symm.trans (by decide))
      nomatch effect

theorem running_of_inPass {s : State} (inPass : InPass s) : s.phase ≠ .halted := by
  intro halted
  simp [InPass, halted] at inPass

/-- The loop of a pass: the phase takes the next slot before SCHED_DISPATCH_SLOT runs (R130). -/
theorem reachSlot_controlInv {s : State} (hs : ControlInv s) (inPass : InPass s) (idle : s.hold = .none)
    (more : s.passIndex < s.taskCount.toNat) :
    ControlInv { s with phase := .dispatch s.passIndex, passIndex := s.passIndex + 1 } := by
  have running := running_of_inPass inPass
  obtain ⟨wf, pc, tick, delay, main⟩ := controlInv_core hs
  have isr := controlInv_inIsr hs running
  refine controlInv_of_running ⟨wf, pc, tick, delay, main⟩ (hs.fault_iff.2 running) isr ?_
  exact ⟨inPass.1, idle, .inr rfl, more, (controlInv_phaseInv hs running).beforeLast (.inr (.inl inPass.1))⟩

theorem endPass_controlInv {s : State} (hs : ControlInv s) (inPass : InPass s) (idle : s.hold = .none) :
    ControlInv (endPass s) := by
  have running := running_of_inPass inPass
  have fault := hs.fault_iff.2 running
  have isr := controlInv_inIsr hs running
  have before := (controlInv_phaseInv hs running).beforeLast (.inr (.inl inPass.1))
  rcases endPass_cases s with ⟨entered, e⟩ | ⟨early, e⟩ <;> rw [e]
  · obtain ⟨wf, pc, tick, delay, main⟩ := controlInv_core hs
    refine controlInv_of_running ⟨wf, pc, tick, delay, main⟩ fault isr ?_
    simp [PhaseInv, entered, idle]
  · obtain ⟨wf, pc, tick, delay, main⟩ := (controlInv_core hs).advance early (before early)
    refine controlInv_of_running ⟨wf, pc, tick, delay, main⟩ fault isr ?_
    simp [PhaseInv, early, idle]

theorem passStep_controlInv {s t : State} (hs : ControlInv s) (inPass : InPass s) (idle : s.hold = .none)
    (h : passStep s = .next t) : ControlInv t := by
  rcases passStep_eq_next.1 h with ⟨more, h⟩ | ⟨-, rfl⟩
  · have reached := reachSlot_controlInv hs inPass idle more
    refine executes_controlInv reached h (schedDispatchSlot_controlInv reached ?_)
    have := s.taskCount.isLt
    rw [BitVec.toNat_ofNat, Nat.mod_eq_of_lt (by omega)]
  · exact endPass_controlInv hs inPass idle

theorem ready_of_callback {s : State} {i k : Nat} (callback : s.phase = .inCallback i k) (idle : s.hold = .none) :
    Ready s := by
  constructor <;> simp [callback, idle]

theorem externalStep_controlInv {s t : State} {i k : Nat} (hs : ControlInv s) (callback : s.phase = .inCallback i k)
    (idle : s.hold = .none) (h : externalStep i k s = .next t) : ControlInv t := by
  have ready := ready_of_callback callback idle
  have place : Completing s := .inr ⟨i, k, callback⟩
  rcases externalStep_eq_next.1 h with ⟨-, rfl⟩ | ⟨-, h⟩ | ⟨ms, -, h⟩ | ⟨-, rfl⟩
  · exact complete_callback callback ▸ complete_controlInv hs ready place
  · exact executes_controlInv hs h fun effect => effect.controlInv hs ready (by simp) (by simp)
  · exact executes_controlInv hs h fun effect => effect.controlInv hs ready (by simp) (by simp)
  · exact returnFromCallback_controlInv hs idle callback (by constructor <;> simp)

theorem phaseStep_controlInv {s t : State} (hs : ControlInv s) (idle : s.hold = .none) (h : phaseStep s = .next t) :
    ControlInv t := by
  rcases phaseStep_eq_next.1 h with
    ⟨boot, outside, h⟩ | ⟨pass, h⟩ | ⟨i, k, callback, -, h⟩ | ⟨i, k, callback, -, h⟩ | ⟨wait, outside, h⟩
  · exact fetchStep_controlInv hs boot outside idle h
  · refine passStep_controlInv hs ?_ idle h
    rcases pass with ⟨boot | wait, pass⟩ | ⟨i, dispatch⟩
    · exact ⟨pass, .inl boot⟩
    · exact ⟨pass, .inr (.inl wait)⟩
    · exact ⟨(hs.dispatch i dispatch).1, .inr (.inr ⟨i, dispatch⟩)⟩
  · exact executes_controlInv hs h fun effect =>
      effect.controlInv hs (ready_of_callback callback idle) (by simp) (by simp)
  · exact externalStep_controlInv hs callback idle h
  · have ready : Ready s := by constructor <;> simp [wait, idle, outside]
    exact executes_controlInv hs h fun effect => effect.controlInv hs ready (by simp) (by simp)

theorem afterWait_controlInv {s t : State} (hs : ControlInv s) (running : s.phase ≠ .halted) (hold : s.hold = .waitIrq)
    (h : afterWait s = .next t) : ControlInv t := by
  have holds : s.hold ≠ .none := by simp [hold]
  rcases afterWait_eq_next.1 h with ⟨-, h⟩ | ⟨notWait, rfl⟩
  · exact executes_controlInv (release_controlInv hs) h
      (schedDispatch_controlInv (release_controlInv hs) (ready_of_hold hs running holds))
  · rcases hs.hold_wait hold with boot | wait | halted
    · exact endHold_controlInv hs running holds (.inl boot)
    · exact absurd wait notWait
    · exact absurd halted running

theorem taskStep_controlInv {s t : State} (hs : ControlInv s) (running : s.phase ≠ .halted) (h : taskStep s = .next t) :
    ControlInv t := by
  rcases taskStep_eq_next.1 h with
    ⟨idle, h⟩ | ⟨ms, hold, -, rfl⟩ | ⟨ms, -, -, rfl⟩ | ⟨hold, -, h⟩ | ⟨-, -, rfl⟩
  · exact phaseStep_controlInv hs idle h
  · have place : Completing s := (hs.hold_delay ms hold).imp_right (Or.resolve_right · running)
    exact endHold_controlInv hs running (by simp [hold]) place
  · exact hs
  · exact afterWait_controlInv hs running hold h
  · exact hs

theorem agentStep_controlInv {s t : State} (hs : ControlInv s) (running : s.phase ≠ .halted)
    (h : agentStep s = .next t) : ControlInv t := by
  cases turn : s.env.turn with
  | task => exact taskStep_controlInv hs running (agentStep_task turn ▸ h)
  | interrupt => exact executes_controlInv hs (agentStep_interrupt turn ▸ h) (tickIsr_controlInv hs)
  | environment => exact executes_controlInv hs (agentStep_environment turn ▸ h) (timerFire_controlInv hs)

/-- Settles O56: the invariants, said phase by phase (`PhaseInv`), are kept by what each agent does in each phase. -/
theorem controlInvKept : Obligations.ControlInvKept :=
  step_invariant (fun _ => SameControl.inv (by constructor <;> simp))
    fun _ _ running _ hs h => agentStep_controlInv hs running h

/-! ### Single steps and reset (O5, O10, O60) -/

/-- Settles O5: a block that runs, on the task context's turn, with no hold and no pass, fetches the word and runs it. -/
theorem stepRunsDecodedInstruction : Obligations.StepRunsDecodedInstruction := by
  rintro s w i running ⟨turn, idle⟩ boot outside fetch decoded
  rw [step_of_running running, agentStep_task turn]
  simp [taskStep, idle, phaseStep, boot, outside, fetchStep, State.fetchWord, fetch, decoded]

/-- Settles O10: each value is a field of `State.reset`. -/
theorem resetValuesTheSpecGives : Obligations.ResetValuesTheSpecGives := by
  simp [Obligations.ResetValuesTheSpecGives, State.reset]

theorem reset_registryInv (p : List OpWord) : RegistryInv { State.reset with program := p } where
  time_width := le_refl 16
  length := by simp [State.reset]
  count_le := Nat.zero_le _
  slots_ok := by simp [State.reset]
  seq_iff := by simp [State.reset]
  seq_unique := by simp [State.reset]
  before_init := fun _ => rfl

theorem reset_controlInv {p : List OpWord} (wf : programWf p = true) :
    ControlInv { State.reset with program := p } := by
  have nonempty : 0 < p.length := by
    simp only [programWf, Bool.and_eq_true, decide_eq_true_eq] at wf
    omega
  refine controlInv_of_running ⟨wf, nonempty, Nat.two_pow_pos _, Nat.two_pow_pos _, nofun⟩ rfl rfl ?_
  simp [State.reset, PhaseInv]

theorem reset_sequencerInv (p : List OpWord) : SequencerInv { State.reset with program := p } :=
  ⟨Nat.zero_le _, Nat.zero_le _, Nat.two_pow_pos _⟩

theorem reset_latchInv (p : List OpWord) : LatchInv { State.reset with program := p } := nofun

/-- Before PERIPH_INIT the relay invariant asks for no more than the program's words, the boot phase and the OFF state. -/
theorem reset_relayInv {p : List OpWord}
    (words : ∀ w ∈ p, (∀ id lvl, decode w ≠ some (.setRelay id lvl)) ∧ decode w ≠ some .schedDispatch) :
    RelayInv { State.reset with program := p } where
  no_relay_word := fun w hw => (words w hw).1
  no_boot_pass := fun w hw => (words w hw).2
  boot_phase := fun _ => .inl ⟨rfl, rfl⟩
  main_phase := nofun
  boot_off := fun _ => ⟨rfl, nofun⟩
  ready := nofun
  settle := nofun
  stage := nofun
  stage_valid := (ofBits_ne_invalid_iff 0).2 (Nat.zero_le 8)

/-- Settles O60: the registry is empty, the block stands at word 0 of the boot program, and nothing is logged or
energized. -/
theorem invariantsAtReset : Obligations.InvariantsAtReset := fun p wf =>
  ⟨reset_registryInv p, reset_controlInv wf, reset_sequencerInv p, reset_latchInv p, reset_relayInv⟩

end Sys2Proof.Proofs

/-! PROOFS of the statements about steps and due flags (spec/20_memory.md). First what a step of a task context that is not
holding runs in each phase. Then the due flags: outside the test of a pass's slot no operation clears a registered one,
and that test calls the callback of the flag it clears. -/

namespace Sys2Proof.Proofs

open Sys2Proof Sys2Proof.Machine Sys2Proof.Safety Sys2Proof.Laws

/-! ### What a step runs (O7) -/

/-- On the task context's turn, with no hold, a block that runs takes the step of its phase. -/
theorem step_of_taskReady {s : State} (running : Running s) (ready : TaskReady s) :
    step s = mapNext drawChoices (phaseStep s) := by
  obtain ⟨turn, idle⟩ := ready
  rw [step_of_running running, agentStep_task turn, taskStep, idle]

/-- At every interrupt point of a pass, the first one included, the pass goes on. -/
theorem phaseStep_of_inPass {s : State} (inPass : InPass s) : phaseStep s = passStep s := by
  obtain ⟨pass, boot | wait | ⟨i, dispatch⟩⟩ := inPass
  · simp [phaseStep, boot, pass]
  · simp [phaseStep, wait, pass]
  · simp [phaseStep, dispatch]

theorem phaseStep_of_boot {s : State} (boot : s.phase = .boot) (outside : s.inDispatch = false) :
    phaseStep s = fetchStep s := by
  simp [phaseStep, boot, outside]

theorem phaseStep_of_wait {s : State} (wait : s.phase = .wait) (outside : s.inDispatch = false) :
    phaseStep s = exec .waitIrq s := by
  simp [phaseStep, wait, outside]

theorem phaseStep_of_sequencer {s : State} {i k : Nat} (callback : s.phase = .inCallback i k)
    (sequencer : (s.slotAt i).cb = 0) : phaseStep s = exec .pseqStep s := by
  simp [phaseStep, callback, isSequencer, sequencer]

theorem phaseStep_of_external {s : State} {i k : Nat} (callback : s.phase = .inCallback i k)
    (external : (s.slotAt i).cb ≠ 0) : phaseStep s = externalStep i k s := by
  have notSequencer : isSequencer (s.slotAt i).cb = false := beq_eq_false_iff_ne.2 external
  simp [phaseStep, callback, notSequencer]

/-- Settles O7: an event's turn runs its operation, and the task context's turn the step of its phase, which each place
fixes. -/
theorem stepRunsTheContextsOperation : Obligations.StepRunsTheContextsOperation := by
  refine fun s running => ⟨fun turn => ?interrupt, fun turn => ?environment, fun ready boot outside => ?boot,
    fun ready inPass more => ?slot, fun ready inPass tested => ?endOfPass,
    fun i k ready callback sequencer => ?sequencer, fun i k ready callback external => ?external,
    fun ready wait outside => ?wait⟩
  case interrupt => rw [step_of_running running, agentStep_interrupt turn]
  case environment => rw [step_of_running running, agentStep_environment turn]
  case boot => rw [step_of_taskReady running ready, phaseStep_of_boot boot outside]
  case slot => rw [step_of_taskReady running ready, phaseStep_of_inPass inPass, passStep, if_pos more]
  case endOfPass =>
    rw [step_of_taskReady running ready, phaseStep_of_inPass inPass, passStep, if_neg (Nat.not_lt.2 tested), mapNext_next]
  case sequencer => rw [step_of_taskReady running ready, phaseStep_of_sequencer callback sequencer]
  case external => rw [step_of_taskReady running ready, phaseStep_of_external callback external]
  case wait => rw [step_of_taskReady running ready, phaseStep_of_wait wait outside]

/-! ### The test of a slot (O22) -/

/-- SCHED_DISPATCH_SLOT of a registered slot, inside a pass, passes its checks. -/
theorem exec_schedDispatchSlot {s : State} {slot : Byte} {j : Nat} (turn : s.env.turn = .task)
    (dispatch : s.phase = .dispatch j) (pass : s.inDispatch = true) (ready : s.schedReady = true)
    (registered : slot.toNat < s.taskCount.toNat) :
    exec (.schedDispatchSlot slot) s =
      .next { clearDue slot.toNat s with
        phase := if (s.slotAt slot.toNat).due then .inCallback slot.toNat 0 else s.phase } := by
  have context : s.context = .dispatch := by simp [State.context, turn, dispatch]
  exact checked_of_none (by simp [wrongClass, mayIssue, context, pass, ready, State.registered, registered])

/-- Settles O22: the operation clears the flag of its slot, and the flag it read decides the phase. -/
theorem slotStepTestsAndClears : Obligations.SlotStepTestsAndClears := by
  intro s slot j turn dispatch pass ready registered _
  refine ⟨_, exec_schedDispatchSlot turn dispatch pass ready registered, by rw [dispatch]; rfl, ?_, fun i other => ?_⟩
  · exact (slotAt_clearDue s slot.toNat slot.toNat).trans (if_pos rfl)
  · exact (slotAt_clearDue s slot.toNat i).trans (if_neg other)

/-! ### The due flags (O26) -/

/-- No due flag of a registered slot is cleared. -/
def DueKept (s t : State) : Prop :=
  ∀ i, i < s.taskCount.toNat → (s.slotAt i).due = true → (t.slotAt i).due = true

/-- The only due flag of a registered slot that may be cleared is that of the slot the pass has reached, and then its
callback is called. -/
def DueServed (s t : State) : Prop :=
  ∀ i, i < s.taskCount.toNat → (s.slotAt i).due = true →
    (t.slotAt i).due = true ∨ (s.passIndex = i ∧ t.phase = .inCallback i 0)

theorem DueKept.served {s t : State} (h : DueKept s t) : DueServed s t := fun i hi due => .inl (h i hi due)

theorem dueKept_of_same {s t : State} (slots : t.slots = s.slots) : DueKept s t := fun i _ due => by
  rwa [slotAt_congr slots]

theorem SameBlock.dueKept {s t : State} (h : SameBlock s t) : DueKept s t := by
  obtain ⟨_, _, _, _, _, _, rfl⟩ := h
  exact dueKept_of_same rfl

/-- A tick sets flags and clears none (R127). -/
theorem dueKept_of_tick {s t : State} (slots : t.slots = tickSlots s.params.timeWidth s.taskCount.toNat s.slots) :
    DueKept s t := fun i _ due => by
  rw [slotAt_tick slots]
  split
  · exact tickSlot_due_of_due due
  · exact due

/-- A registration writes a slot past the registered ones. -/
theorem registerTask_dueKept (cb : Byte) (dly per name : Half) (s : State) :
    DueKept s (nextWord (registerTask cb dly per name s)) := fun i hi due => by
  have old : (nextWord (registerTask cb dly per name s)).slotAt i = s.slotAt i := slotAt_setSlot_ne _ hi.ne
  rwa [old]

/-- Outside the test of a slot inside a pass, an operation clears no flag. -/
theorem Effect.dueKept {s t : State} {op : Instr} (h : Effect s op t)
    (noTest : ∀ slot, op = .schedDispatchSlot slot → ∀ j, s.phase ≠ .dispatch j) : DueKept s t := by
  cases h with
  | schedAddTask => exact registerTask_dueKept _ _ _ _ s
  | schedDispatchSlot inside =>
    obtain ⟨j, dispatch⟩ := inside
    exact absurd dispatch (noTest _ rfl j)
  | schedTick => exact dueKept_of_tick rfl
  | tickIsr => exact dueKept_of_tick rfl
  | _ => exact dueKept_of_same (by simp)

theorem exec_dueKept {s t : State} {op : Instr} (h : exec op s = .next t)
    (noTest : ∀ slot, op = .schedDispatchSlot slot → ∀ j, s.phase ≠ .dispatch j) : DueKept s t := by
  rcases exec_executes h with ⟨c, -, rfl⟩ | effect
  · exact dueKept_of_same rfl
  · exact effect.dueKept noTest

/-- The test of a slot clears that slot's flag alone, and calls its callback if it was set (R131). -/
theorem schedDispatchSlot_due {s t : State} {slot : Byte} {i : Nat} (h : Effect s (.schedDispatchSlot slot) t)
    (due : (s.slotAt i).due = true) :
    (t.slotAt i).due = true ∨ (slot.toNat = i ∧ t.phase = .inCallback i 0) := by
  cases h with
  | schedDispatchSlot =>
    by_cases tested : i = slot.toNat
    · subst tested
      exact .inr ⟨rfl, if_pos due⟩
    · have other : (clearDue slot.toNat s).slotAt i = s.slotAt i :=
        (slotAt_clearDue s slot.toNat i).trans (if_neg tested)
      exact .inl ((congrArg Slot.due other).trans due)

/-- A pass tests the slot that it has reached, or ends. -/
theorem passStep_dueServed {s t : State} (h : passStep s = .next t) : DueServed s t := by
  rcases passStep_eq_next.1 h with ⟨more, h⟩ | ⟨-, rfl⟩
  · rcases exec_executes h with ⟨c, -, rfl⟩ | test
    · exact DueKept.served (dueKept_of_same rfl)
    · have reached : (BitVec.ofNat 8 s.passIndex).toNat = s.passIndex := by
        have := s.taskCount.isLt
        rw [BitVec.toNat_ofNat, Nat.mod_eq_of_lt (by omega)]
      exact fun i _ due => reached ▸ schedDispatchSlot_due test due
  · exact (sameBlock_endPass s).dueKept.served

theorem fetchStep_dueKept {s t : State} (boot : s.phase = .boot) (h : fetchStep s = .next t) : DueKept s t := by
  obtain ⟨w, -, ⟨-, rfl⟩ | ⟨op, -, h⟩⟩ := fetchStep_eq_next.1 h
  · exact dueKept_of_same rfl
  · exact exec_dueKept h fun _ _ => by simp [boot]

theorem externalStep_dueKept {s t : State} {i k : Nat} (h : externalStep i k s = .next t) : DueKept s t := by
  rcases externalStep_eq_next.1 h with ⟨-, rfl⟩ | ⟨-, h⟩ | ⟨ms, -, h⟩ | ⟨-, rfl⟩
  · exact dueKept_of_same rfl
  · exact exec_dueKept h nofun
  · exact exec_dueKept h nofun
  · exact dueKept_of_same rfl

theorem phaseStep_dueServed {s t : State} (h : phaseStep s = .next t) : DueServed s t := by
  rcases phaseStep_eq_next.1 h with
    ⟨boot, -, h⟩ | ⟨-, h⟩ | ⟨i, k, -, -, h⟩ | ⟨i, k, -, -, h⟩ | ⟨-, -, h⟩
  · exact (fetchStep_dueKept boot h).served
  · exact passStep_dueServed h
  · exact (exec_dueKept h nofun).served
  · exact (externalStep_dueKept h).served
  · exact (exec_dueKept h nofun).served

/-- The end of a wait completes it, or starts the main loop's next pass. -/
theorem afterWait_dueKept {s t : State} (h : afterWait s = .next t) : DueKept s t := by
  rcases afterWait_eq_next.1 h with ⟨-, h⟩ | ⟨-, rfl⟩
  · exact exec_dueKept (s := { s with hold := .none }) h nofun
  · exact (sameBlock_endHold s).dueKept

theorem taskStep_dueServed {s t : State} (h : taskStep s = .next t) : DueServed s t := by
  rcases taskStep_eq_next.1 h with ⟨-, h⟩ | ⟨ms, -, -, rfl⟩ | ⟨ms, -, -, rfl⟩ | ⟨-, -, h⟩ | ⟨-, -, rfl⟩
  · exact phaseStep_dueServed h
  · exact (sameBlock_endHold s).dueKept.served
  · exact (dueKept_of_same rfl).served
  · exact (afterWait_dueKept h).served
  · exact (dueKept_of_same rfl).served

/-- Settles O26: the events keep every due flag, and the task context clears one only where it calls the callback. -/
theorem dueSignalNeverLost : Obligations.DueSignalNeverLost := by
  intro s t i h registered due
  obtain ⟨-, -, -, u, agent, rfl⟩ := step_eq_next.1 h
  rw [drawChoices_slotAt, drawChoices_phase]
  cases turn : s.env.turn with
  | task =>
    exact (taskStep_dueServed (agentStep_task turn ▸ agent) i registered due).imp_right fun served => ⟨rfl, served⟩
  | interrupt =>
    rw [agentStep_interrupt turn] at agent
    exact .inl (exec_dueKept agent nofun i registered due)
  | environment =>
    rw [agentStep_environment turn] at agent
    exact .inl (exec_dueKept agent nofun i registered due)

end Sys2Proof.Proofs

/-! PROOFS of the statements about encoding (spec/30_encoding.md). First each format (R82): which words it reads, and as
what. Then the opcode map (R85), row by row through the number of an operation. Then the step at an illegal word (R86), and
the class check that every operation starts with (R243). -/

namespace Sys2Proof.Proofs

open Sys2Proof Sys2Proof.Machine Sys2Proof.Safety Sys2Proof.Laws
open Sys2Proof.Laws.EncodedOpcode (number)
open BitVec (extractLsb'_append_eq_right)

/-! ### The fields of a word -/

/-- Neighbouring fields make one field. -/
theorem bits_append_bits (w : OpWord) (lo len len' : Nat) :
    bits w (lo + len) len' ++ bits w lo len = bits w lo (len' + len) :=
  BitVec.extractLsb'_append_extractLsb'_eq_extractLsb' rfl

theorem bits_all (w : OpWord) : bits w 0 64 = w := BitVec.extractLsb'_eq_self

/-- A field above the lowest part is a field of the rest of the word. -/
theorem extract_under {m n start len : Nat} {hi : BitVec m} {lo : BitVec n} {field : BitVec len}
    (h : hi.extractLsb' start len = field) : (hi ++ lo).extractLsb' (start + n) len = field := by
  rw [BitVec.extractLsb'_append_eq_of_le (Nat.le_add_left n start), Nat.add_sub_cancel, h]

/-! ### The formats of R82

Each reads back the operands of the words it makes, reads no other word, and refuses a word for a reserved bit alone. -/

theorem formatZ_wordZ (op : Byte) (i : Instr) : formatZ (wordZ op) i = some i := if_pos extractLsb'_append_eq_right

theorem wordZ_of_formatZ {w : OpWord} {i j : Instr} (h : formatZ w i = some j) : j = i ∧ wordZ (opcode w) = w := by
  obtain ⟨reserved, same⟩ := Option.ite_none_right_eq_some.1 h
  refine ⟨(Option.some.inj same).symm, ?_⟩
  calc
    wordZ (opcode w) = bits w 56 8 ++ bits w 0 56 := by rw [reserved]; rfl
    _ = w := by rw [bits_append_bits w 0 56 8, bits_all]

theorem formatT_wordT (op cb : Byte) (dly per name : Half) (f : Byte → Half → Half → Half → Instr) :
    formatT (op ++ cb ++ dly ++ per ++ name) f = some (f cb dly per name) := by
  have hcb : bits (op ++ cb ++ dly ++ per ++ name) 48 8 = cb :=
    extract_under <| extract_under <| extract_under extractLsb'_append_eq_right
  have hdly : bits (op ++ cb ++ dly ++ per ++ name) 32 16 = dly :=
    extract_under <| extract_under extractLsb'_append_eq_right
  have hper : bits (op ++ cb ++ dly ++ per ++ name) 16 16 = per := extract_under extractLsb'_append_eq_right
  have hname : bits (op ++ cb ++ dly ++ per ++ name) 0 16 = name := extractLsb'_append_eq_right
  rw [formatT, hcb, hdly, hper, hname]

theorem wordT_of_formatT {w : OpWord} {f : Byte → Half → Half → Half → Instr} {j : Instr} (h : formatT w f = some j) :
    ∃ cb dly per name, j = f cb dly per name ∧ opcode w ++ cb ++ dly ++ per ++ name = w := by
  refine ⟨_, _, _, _, (Option.some.inj h).symm, ?_⟩
  rw [opcode, bits_append_bits w 48 8 8, bits_append_bits w 32 16 16, bits_append_bits w 16 16 32,
    bits_append_bits w 0 16 48, bits_all]

theorem formatS_wordS (op a : Byte) (f : Byte → Instr) : formatS (wordS op a) f = some (f a) := by
  have ha : bits (wordS op a) 48 8 = a := extract_under extractLsb'_append_eq_right
  have reserved : bits (wordS op a) 0 48 = 0 := extractLsb'_append_eq_right
  rw [formatS, ha, if_pos reserved]

theorem wordS_of_formatS {w : OpWord} {f : Byte → Instr} {j : Instr} (h : formatS w f = some j) :
    ∃ a, j = f a ∧ wordS (opcode w) a = w := by
  obtain ⟨reserved, same⟩ := Option.ite_none_right_eq_some.1 h
  refine ⟨_, (Option.some.inj same).symm, ?_⟩
  calc
    wordS (opcode w) (bits w 48 8) = bits w 56 8 ++ bits w 48 8 ++ bits w 0 48 := by rw [reserved]; rfl
    _ = w := by rw [bits_append_bits w 48 8 8, bits_append_bits w 0 48 16, bits_all]

theorem formatR_wordR (op id lvl : Byte) (f : Byte → Byte → Instr) :
    formatR (op ++ id ++ lvl ++ 0#40) f = some (f id lvl) := by
  have hid : bits (op ++ id ++ lvl ++ 0#40) 48 8 = id :=
    extract_under <| extract_under extractLsb'_append_eq_right
  have hlvl : bits (op ++ id ++ lvl ++ 0#40) 40 8 = lvl := extract_under extractLsb'_append_eq_right
  have reserved : bits (op ++ id ++ lvl ++ 0#40) 0 40 = 0 := extractLsb'_append_eq_right
  rw [formatR, hid, hlvl, if_pos reserved]

theorem wordR_of_formatR {w : OpWord} {f : Byte → Byte → Instr} {j : Instr} (h : formatR w f = some j) :
    ∃ id lvl, j = f id lvl ∧ opcode w ++ id ++ lvl ++ 0#40 = w := by
  obtain ⟨reserved, same⟩ := Option.ite_none_right_eq_some.1 h
  refine ⟨_, _, (Option.some.inj same).symm, ?_⟩
  calc
    opcode w ++ bits w 48 8 ++ bits w 40 8 ++ 0#40 = bits w 56 8 ++ bits w 48 8 ++ bits w 40 8 ++ bits w 0 40 := by
      rw [reserved]; rfl
    _ = w := by
      rw [bits_append_bits w 48 8 8, bits_append_bits w 40 8 16, bits_append_bits w 0 40 24, bits_all]

theorem formatD_wordD (op : Byte) (ms : Tick) (f : Tick → Instr) : formatD (op ++ 0#24 ++ ms) f = some (f ms) := by
  have hms : bits (op ++ 0#24 ++ ms) 0 32 = ms := extractLsb'_append_eq_right
  have reserved : bits (op ++ 0#24 ++ ms) 32 24 = 0 := extract_under extractLsb'_append_eq_right
  rw [formatD, hms, if_pos reserved]

theorem wordD_of_formatD {w : OpWord} {f : Tick → Instr} {j : Instr} (h : formatD w f = some j) :
    ∃ ms, j = f ms ∧ opcode w ++ 0#24 ++ ms = w := by
  obtain ⟨reserved, same⟩ := Option.ite_none_right_eq_some.1 h
  refine ⟨_, (Option.some.inj same).symm, ?_⟩
  calc
    opcode w ++ 0#24 ++ bits w 0 32 = bits w 56 8 ++ bits w 32 24 ++ bits w 0 32 := by rw [reserved]; rfl
    _ = w := by rw [bits_append_bits w 32 24 8, bits_append_bits w 0 32 32, bits_all]

theorem formatZ_eq_none {w : OpWord} {i : Instr} : formatZ w i = none ↔ bits w 0 56 ≠ 0 := by simp [formatZ]
theorem formatT_ne_none {w : OpWord} {f : Byte → Half → Half → Half → Instr} : formatT w f ≠ none := by simp [formatT]
theorem formatS_eq_none {w : OpWord} {f : Byte → Instr} : formatS w f = none ↔ bits w 0 48 ≠ 0 := by simp [formatS]
theorem formatR_eq_none {w : OpWord} {f : Byte → Byte → Instr} : formatR w f = none ↔ bits w 0 40 ≠ 0 := by
  simp [formatR]
theorem formatL_eq_none {w : OpWord} {f : Byte → Instr} : formatL w f = none ↔ bits w 0 48 ≠ 0 := formatS_eq_none
theorem formatD_eq_none {w : OpWord} {f : Tick → Instr} : formatD w f = none ↔ bits w 32 24 ≠ 0 := by simp [formatD]

/-! ### The opcode map of R85 -/

/-- What the decoder makes of a word whose OP is the number of an operation: its row's format reads it. The operands of
the operation play no part. -/
def readAs (w : OpWord) : Instr → Option Instr
  | .schedAddTask _ _ _ _ => formatT w .schedAddTask
  | .schedDispatchSlot _ => formatS w .schedDispatchSlot
  | .setRelay _ _ => formatR w .setRelay
  | .setLed _ => formatL w .setLed
  | .delayMs _ => formatD w .delayMs
  | i => formatZ w i

theorem decode_eq_readAs {w : OpWord} {i : Instr} (op : opcode w = number i) : decode w = readAs w i := by
  rw [decode, op]
  cases i <;> rfl

/-- The word of an operation holds its number in OP. -/
theorem opcode_encode (i : Instr) : opcode (encode i) = number i := by
  cases i with
  | schedAddTask cb dly per name => exact EncodedOpcode.schedAddTask cb dly per name
  | schedDispatchSlot slot => exact EncodedOpcode.schedDispatchSlot slot
  | setRelay id lvl => exact EncodedOpcode.setRelay id lvl
  | setLed lvl => exact EncodedOpcode.setLed lvl
  | delayMs ms => exact EncodedOpcode.delayMs ms
  | _ => rfl

theorem readAs_encode (i : Instr) : readAs (encode i) i = some i := by
  cases i with
  | schedAddTask cb dly per name => exact formatT_wordT _ cb dly per name _
  | schedDispatchSlot slot => exact formatS_wordS _ slot _
  | setRelay id lvl => exact formatR_wordR _ id lvl _
  | setLed lvl => exact formatS_wordS _ lvl _
  | delayMs ms => exact formatD_wordD _ ms _
  | _ => exact formatZ_wordZ _ _

theorem encode_of_readAs {w : OpWord} {i j : Instr} (op : opcode w = number i) (h : readAs w i = some j) :
    encode j = w := by
  cases i with
  | schedAddTask =>
    obtain ⟨cb, dly, per, name, rfl, word⟩ := wordT_of_formatT h
    rwa [op] at word
  | schedDispatchSlot =>
    obtain ⟨slot, rfl, word⟩ := wordS_of_formatS h
    rwa [op] at word
  | setRelay =>
    obtain ⟨id, lvl, rfl, word⟩ := wordR_of_formatR h
    rwa [op] at word
  | setLed =>
    obtain ⟨lvl, rfl, word⟩ := wordS_of_formatS h
    rwa [op] at word
  | delayMs =>
    obtain ⟨ms, rfl, word⟩ := wordD_of_formatD h
    rwa [op] at word
  | _ =>
    obtain ⟨rfl, word⟩ := wordZ_of_formatZ h
    rwa [op] at word

/-- One operation of each row of the opcode map, in its order. -/
def rows : List Instr :=
  [.schedInit, .schedAddTask 0 0 0 0, .schedDispatch, .schedDispatchSlot 0, .schedTick, .timerFire, .tickIsr,
    .periphInit, .irqDisable, .irqEnable, .waitIrq, .mainLoop, .fatalHalt, .pseqStep, .readButton, .setRelay 0 0,
    .setLed 0, .getTicks, .delayMs 0]

/-- The OPs that the map gives to an operation. -/
def mappedOps : List Nat := rows.map fun i => (number i).toNat

/-- An OP is the number of an operation, or no row has it and its words are illegal (R86). -/
theorem mapped_or_illegal (w : OpWord) :
    (∃ i, opcode w = number i) ∨ ((opcode w).toNat ∉ mappedOps ∧ decode w = none) := by
  by_cases mapped : (opcode w).toNat ∈ mappedOps
  · obtain ⟨i, -, op⟩ := List.mem_map.1 mapped
    exact .inl ⟨i, BitVec.eq_of_toNat_eq op.symm⟩
  · refine .inr ⟨mapped, ?_⟩
    unfold decode
    split
    case h_20 => rfl
    all_goals next op => exact absurd (by rw [op]; decide) mapped

/-! ### The round trips and the illegal words (O1 to O4) -/

/-- Settles O1: the row of an operation reads the fields of its word back. -/
theorem decodeOfEncode : Obligations.DecodeOfEncode := fun i =>
  (decode_eq_readAs (opcode_encode i)).trans (readAs_encode i)

/-- Settles O2: the row that reads a word leaves no bit of it free. -/
theorem encodeOfDecode : Obligations.EncodeOfDecode := fun w j h => by
  rcases mapped_or_illegal w with ⟨i, op⟩ | ⟨-, illegal⟩
  · exact encode_of_readAs op (decode_eq_readAs op ▸ h)
  · rw [illegal] at h
    cases h

/-- Settles O3: a mapped OP leaves the reserved bits of its row's format to decide. -/
theorem illegalWordsExactly : Obligations.IllegalWordsExactly := fun w => by
  rcases mapped_or_illegal w with ⟨i, op⟩ | ⟨unmapped, illegal⟩
  · have field : w.extractLsb' 56 8 = number i := op
    rw [decode_eq_readAs op, field]
    cases i with
    | schedAddTask => simp [readAs, number, formatT_ne_none]
    | schedDispatchSlot => simp [readAs, number, formatS_eq_none, bits]
    | setRelay => simp [readAs, number, formatR_eq_none, bits]
    | setLed => simp [readAs, number, formatL_eq_none, bits]
    | delayMs => simp [readAs, number, formatD_eq_none, bits]
    | _ => simp [readAs, number, formatZ_eq_none, bits]
  · exact iff_of_true illegal (.inl unmapped)

/-- A word decodes to the one operation whose word it is. -/
theorem decode_eq_some {w : OpWord} {i : Instr} : decode w = some i ↔ encode i = w :=
  ⟨encodeOfDecode w i, fun word => word ▸ decodeOfEncode i⟩

/-- Settles O4: each worked word is the word of its operation, and no row has the OP 0. -/
theorem sampleWordsDecode : Obligations.SampleWordsDecode := by
  refine ⟨?_, ?_, ?_, ?_, ?_, ?_, ?_, ?_, ?_, (illegalWordsExactly 0).2 (.inl (by decide))⟩
  all_goals exact decode_eq_some.2 (by decide)

/-! ### The step at an illegal word (O6) -/

/-- Settles O6: the boot program's fetch raises the fault, and the fault entry writes its code and the phase alone. -/
theorem illegalWordRaisesIllegalOp : Obligations.IllegalWordRaisesIllegalOp := by
  intro s w running ready boot outside fetch illegal
  have fetched : fetchStep s = .next (raiseFault .illegalOp s) :=
    fetchStep_eq_next.2 ⟨w, fetch, .inl ⟨illegal, rfl⟩⟩
  rw [step_of_taskReady running ready, phaseStep_of_boot boot outside, fetched, mapNext_next,
    raiseFault_of_running _ running.2.1]
  rfl

/-! ### Operations outside their class (O51) -/

/-- Every operation starts with its class check; PSEQ_STEP outside a callback fails it before. -/
theorem exec_checks_class (i : Instr) (s : State) :
    (∃ checks body, exec i s = checked (wrongClass i s :: checks) s body) ∨
      exec i s = raised .wrongContext s := by
  cases i with
  | pseqStep =>
    simp only [exec, execPseqStep]
    split
    · exact .inl ⟨_, _, rfl⟩
    · exact .inr rfl
  | _ => exact .inl ⟨_, _, rfl⟩

theorem exec_of_outside {i : Instr} {s : State} (outside : mayIssue i s.context = false) :
    exec i s = .next (raiseFault .wrongContext s) := by
  rcases exec_checks_class i s with ⟨checks, body, e⟩ | e
  · exact e.trans (checked_of_some (by simp [wrongClass, outside]))
  · exact e

/-- The same for any operation of a list that the class column keeps out of a context. -/
theorem exec_of_listed {i : Instr} {ops : List Instr} {c : Context} {s : State} (op : i ∈ ops) (context : s.context = c)
    (refused : ops.any (mayIssue · c) = false) : exec i s = .next (raiseFault .wrongContext s) := by
  subst context
  exact exec_of_outside (by simpa using List.any_eq_false.1 refused i op)

/-- Outside phase BOOT no operation is issued by the boot program. -/
theorem context_ne_boot {s : State} (notBoot : s.phase ≠ .boot) : (s.context == .boot) = false :=
  beq_eq_false_iff_ne.2 fun boot => notBoot (phase_of_context boot)

/-- The interrupt issues SCHED_TICK and TICK_ISR alone (R85). -/
theorem mayIssue_interrupt {i : Instr} : mayIssue i .interrupt = true ↔ i = .schedTick ∨ i = .tickIsr := by
  cases i <;> simp [mayIssue]

/-- The environment issues TIMER_FIRE alone (R85). -/
theorem mayIssue_environment {i : Instr} : mayIssue i .environment = true ↔ i = .timerFire := by
  cases i <;> simp [mayIssue]

/-- SCHED_TICK in the interrupt context but outside TICK_ISR (R126). -/
theorem schedTick_outside_isr {s : State} (turn : s.env.turn = .interrupt) (outside : s.inIsr = false) :
    exec .schedTick s = .next (raiseFault .wrongContext s) := by
  have context : s.context = .interrupt := by simp [State.context, turn]
  have fails : schedTickOp s = .error .wrongContext := schedTickOp_error.2 (.inl ⟨outside, rfl⟩)
  have passes : firstFault [wrongClass .schedTick s] = none := by simp [wrongClass, mayIssue, context]
  exact (checked_of_none passes).trans (by rw [fails]; rfl)

/-- Settles O51: in each context the class check refuses every listed operation; SCHED_TICK has a check of its own. -/
theorem wrongContextOutsideClass : Obligations.WrongContextOutsideClass := by
  intro s i cb slot id lvl dly per name ms noFault place
  suffices raises : exec i s = .next (raiseFault .wrongContext s) from
    raises.trans (congrArg _ (raiseFault_of_running .wrongContext noFault))
  rcases place with ⟨turn, boot, op⟩ | ⟨-, notBoot, op⟩ | ⟨turn, ⟨j, pass⟩, op⟩ |
    ⟨⟨j, k, turn, callback, sequencer⟩, op⟩ | ⟨⟨j, k, turn, callback, external⟩, op⟩ | ⟨turn, wait, op⟩ |
    ⟨turn, notIsr, tick⟩ | ⟨turn, notFire⟩
  · exact exec_of_listed op (context_boot ⟨turn, boot⟩) rfl
  · exact exec_of_listed op rfl (by simp [mayIssue, context_ne_boot notBoot])
  · have context : s.context = .dispatch := by simp [State.context, turn, pass]
    exact exec_of_listed op context rfl
  · have context : s.context = .sequencer := by simp [context_callback turn callback, isSequencer, sequencer]
    exact exec_of_listed op context rfl
  · have context : s.context = .external := by simpa [context_callback turn callback, isSequencer] using external
    exact exec_of_listed op context rfl
  · have context : s.context = .mainLoop := by simp [State.context, turn, wait]
    exact exec_of_listed op context rfl
  · by_cases isTick : i = .schedTick
    · subst isTick
      exact schedTick_outside_isr turn (tick rfl)
    · have context : s.context = .interrupt := by simp [State.context, turn]
      refine exec_of_outside (Bool.eq_false_iff.2 fun issued => ?_)
      exact (mayIssue_interrupt.1 (context ▸ issued)).elim isTick notIsr
  · have context : s.context = .environment := by simp [State.context, turn]
    refine exec_of_outside (Bool.eq_false_iff.2 fun issued => ?_)
    exact notFire (mayIssue_environment.1 (context ▸ issued))

end Sys2Proof.Proofs

/-! PROOFS of the statements about the tick source (spec/40_tick_source.md). First the two events, enabled and not, the
reads and the delay's hold. Then the Tick Counter: every operation but TICK_ISR keeps it, and TICK_ISR runs on the
interrupt's turn alone, so each step counts exactly its own ISR execution. -/

namespace Sys2Proof.Proofs

open Sys2Proof Sys2Proof.Machine Sys2Proof.Safety Sys2Proof.Laws

/-! ### The events (O11, O12, O13) -/

theorem fireEnabled_iff (s : State) : s.fireEnabled = true ↔ s.timerRunning = true ∧ s.fault = 0 := by
  simp [State.fireEnabled]

/-- The enabling condition of R102, with R238's list of places. -/
theorem isrEnabled_iff (s : State) :
    s.isrEnabled = true ↔ s.timerPending = true ∧ s.irqEnabled = true ∧ s.fault = 0 ∧ InterruptPoint s := by
  simp [State.isrEnabled, atInterruptPoint_iff, and_assoc]

/-- Settles O11: the enabling condition of TIMER_FIRE is the one of R101. -/
theorem timerFireSetsPending : Obligations.TimerFireSetsPending := fun s turn => by
  simp only [timerFire_eq turn, fireEnabled_iff]

/-- Settles O12: the enabled ISR runs its whole body, and its tick reaches the registered slots alone. -/
theorem tickIsrRuns : Obligations.TickIsrRuns := by
  intro s turn pending enabled noFault point ready
  have isr : s.isrEnabled = true := (isrEnabled_iff s).2 ⟨pending, enabled, noFault, point⟩
  refine ⟨ticked s, (tickIsr_eq_next turn).2 (.inr (.inl ⟨isr, ready, rfl⟩)), rfl, tickSlots_length _ _ _,
    fun i registered allocated => ?_, fun i free => ?_⟩
  · exact (slotAt_tick rfl i).trans (if_pos ⟨registered, allocated⟩)
  · exact (slotAt_tick rfl i).trans (if_neg fun ⟨registered, _⟩ => free.not_gt registered)

/-- Settles O13: before SCHED_INIT the body stops at its NOT_READY; an ISR that is not enabled has no step. -/
theorem tickIsrNotReadyOrNotEnabled : Obligations.TickIsrNotReadyOrNotEnabled := by
  refine fun s turn => ⟨fun pending enabled noFault point notReady => ?_, fun off => ?_⟩
  · have isr : s.isrEnabled = true := (isrEnabled_iff s).2 ⟨pending, enabled, noFault, point⟩
    have raises := raiseFault_of_running (s := { s with inIsr := true, tickCount := s.nextTick }) .notReady noFault
    exact (tickIsr_eq_next turn).2 (.inr (.inr ⟨isr, notReady, raises.symm⟩))
  · have idle : s.isrEnabled = false := by
      refine Bool.eq_false_iff.2 fun isr => ?_
      obtain ⟨pending, enabled, noFault, point⟩ := (isrEnabled_iff s).1 isr
      simp [pending, enabled, noFault, point] at off
    exact (tickIsr_eq_next turn).2 (.inl ⟨idle, rfl⟩)

/-! ### The reads (O14) -/

theorem exec_getTicks {s : State} (issued : mayIssue .getTicks s.context = true) :
    exec .getTicks s = .next (complete { s with result := .ticks s.tickCount }) :=
  checked_of_none (by simp [wrongClass, issued])

theorem exec_readButton {s : State} (issued : mayIssue .readButton s.context = true) (ready : s.periphReady = true) :
    exec .readButton s = .next (complete { s with result := .level s.env.buttonRaw }) :=
  checked_of_none (by simp [wrongClass, issued, ready])

theorem context_micro {s : State} {i k : Nat} (h : AtMicro i k s) : s.context = .sequencer := by
  obtain ⟨turn, callback, sequencer⟩ := h
  simp [context_callback turn callback, isSequencer, sequencer]

theorem context_external {s : State} {i k : Nat} (h : AtExternal i k s) : s.context = .external := by
  obtain ⟨turn, callback, external⟩ := h
  simpa [context_callback turn callback, isSequencer] using external

/-- Settles O14: each read passes its checks where it may be issued, and completes with its value as the result. -/
theorem readsReturnTheirValue : Obligations.ReadsReturnTheirValue := by
  refine fun s => ⟨fun boot => ?ticksAtBoot, fun i k external => ?ticksInCallback, fun boot ready => ?buttonAtBoot,
    fun i k micro ready => ?buttonInCallback⟩
  case ticksAtBoot =>
    have issued : mayIssue .getTicks s.context = true := by rw [context_boot boot]; rfl
    exact (exec_getTicks issued).trans (congrArg _ (complete_boot boot.2))
  case ticksInCallback =>
    have issued : mayIssue .getTicks s.context = true := by rw [context_external external]; rfl
    obtain ⟨-, callback, -⟩ := external
    exact (exec_getTicks issued).trans (congrArg _ (complete_callback callback))
  case buttonAtBoot =>
    have issued : mayIssue .readButton s.context = true := by rw [context_boot boot]; rfl
    exact (exec_readButton issued ready).trans (congrArg _ (complete_boot boot.2))
  case buttonInCallback =>
    have issued : mayIssue .readButton s.context = true := by rw [context_micro micro]; rfl
    obtain ⟨-, callback, -⟩ := micro
    exact (exec_readButton issued ready).trans (congrArg _ (complete_callback callback))

/-! ### The delay's hold (O43) -/

/-- On the task context's turn a DELAY_MS hold ends or goes on, by the ticks elapsed. -/
theorem step_of_delay {s : State} {ms : Nat} (running : Running s) (turn : s.env.turn = .task)
    (hold : s.hold = .delay ms) : step s = .next (drawChoices (if ms ≤ s.elapsed then endHold s else s)) := by
  rw [step_of_running running, agentStep_task turn, taskStep, hold]
  by_cases elapsed : ms ≤ s.elapsed <;> simp [State.delayDone, elapsed]

/-- Settles O43: the elapsed count decides, and the end of the hold completes DELAY_MS where it stands. -/
theorem delayHoldLifts : Obligations.DelayHoldLifts := by
  refine fun s ms running turn hold => ⟨fun (early : s.elapsed < ms) => ?early,
    fun (late : ms ≤ s.elapsed) => ⟨fun boot => ?boot, fun i k callback => ?callback⟩⟩
  case early => rw [step_of_delay running turn hold, if_neg (not_le.2 early)]
  case boot =>
    rw [step_of_delay running turn hold, if_pos late]
    exact congrArg _ (congrArg drawChoices (complete_boot boot))
  case callback =>
    rw [step_of_delay running turn hold, if_pos late]
    exact congrArg _ (congrArg drawChoices (complete_callback callback))

/-! ### The Tick Counter (O15) -/

/-- Every operation but TICK_ISR keeps the count. -/
theorem Effect.tickCount_eq {s t : State} {i : Instr} (h : Effect s i t) (other : i ≠ .tickIsr) :
    t.tickCount = s.tickCount := by
  cases h with
  | tickIsrIdle => rfl
  | tickIsr => exact absurd rfl other
  | tickIsrNotReady => exact absurd rfl other
  | _ => simp [registerTask]

/-- The interrupt context is that of the interrupt's turn alone (R243). -/
theorem turn_of_context_interrupt {s : State} (context : s.context = .interrupt) : s.env.turn = .interrupt := by
  cases turn : s.env.turn with
  | interrupt => rfl
  | environment => simp [State.context, turn] at context
  | task =>
    cases phase : s.phase with
    | inCallback i k =>
      rw [context_callback turn phase] at context
      split at context <;> contradiction
    | _ => simp [State.context, turn, phase] at context

/-- Off the interrupt's turn every operation keeps the count: TICK_ISR fails its class check there. -/
theorem exec_tickCount {s t : State} {i : Instr} (turn : s.env.turn ≠ .interrupt) (h : exec i s = .next t) :
    t.tickCount = s.tickCount := by
  by_cases isr : i = .tickIsr
  · have outside : mayIssue i s.context = false := by
      subst isr
      exact beq_eq_false_iff_ne.2 fun context => turn (turn_of_context_interrupt context)
    obtain rfl := next_eq_next.1 ((exec_of_outside outside).symm.trans h)
    rfl
  · rcases exec_executes h with ⟨c, -, rfl⟩ | effect
    · rfl
    · exact effect.tickCount_eq isr

theorem passStep_tickCount {s t : State} (turn : s.env.turn ≠ .interrupt) (h : passStep s = .next t) :
    t.tickCount = s.tickCount := by
  rcases passStep_eq_next.1 h with ⟨-, h⟩ | ⟨-, rfl⟩
  · exact exec_tickCount (s := { s with phase := .dispatch s.passIndex, passIndex := s.passIndex + 1 }) turn h
  · exact endPass_tickCount s

theorem fetchStep_tickCount {s t : State} (turn : s.env.turn ≠ .interrupt) (h : fetchStep s = .next t) :
    t.tickCount = s.tickCount := by
  obtain ⟨w, -, ⟨-, rfl⟩ | ⟨i, -, h⟩⟩ := fetchStep_eq_next.1 h
  · rfl
  · exact exec_tickCount turn h

theorem externalStep_tickCount {s t : State} {i k : Nat} (turn : s.env.turn ≠ .interrupt)
    (h : externalStep i k s = .next t) : t.tickCount = s.tickCount := by
  rcases externalStep_eq_next.1 h with ⟨-, rfl⟩ | ⟨-, h⟩ | ⟨ms, -, h⟩ | ⟨-, rfl⟩
  · rfl
  · exact exec_tickCount turn h
  · exact exec_tickCount turn h
  · rfl

theorem phaseStep_tickCount {s t : State} (turn : s.env.turn ≠ .interrupt) (h : phaseStep s = .next t) :
    t.tickCount = s.tickCount := by
  rcases phaseStep_eq_next.1 h with ⟨-, -, h⟩ | ⟨-, h⟩ | ⟨i, k, -, -, h⟩ | ⟨i, k, -, -, h⟩ | ⟨-, -, h⟩
  · exact fetchStep_tickCount turn h
  · exact passStep_tickCount turn h
  · exact exec_tickCount turn h
  · exact externalStep_tickCount turn h
  · exact exec_tickCount turn h

theorem taskStep_tickCount {s t : State} (turn : s.env.turn ≠ .interrupt) (h : taskStep s = .next t) :
    t.tickCount = s.tickCount := by
  rcases taskStep_eq_next.1 h with ⟨-, h⟩ | ⟨ms, -, -, rfl⟩ | ⟨ms, -, -, rfl⟩ | ⟨-, -, h⟩ | ⟨-, -, rfl⟩
  · exact phaseStep_tickCount turn h
  · exact endHold_tickCount s
  · rfl
  · rcases afterWait_eq_next.1 h with ⟨-, h⟩ | ⟨-, rfl⟩
    · exact exec_tickCount (s := { s with hold := .none }) turn h
    · exact endHold_tickCount s
  · rfl

/-- The ISR counts once when it is enabled, whether or not its body then faults (R232). -/
theorem tickIsr_tickCount {s t : State} (turn : s.env.turn = .interrupt) (h : exec .tickIsr s = .next t) :
    t.tickCount = if s.isrEnabled = true then s.nextTick else s.tickCount := by
  rcases (tickIsr_eq_next turn).1 h with ⟨off, rfl⟩ | ⟨on, -, rfl⟩ | ⟨on, -, rfl⟩
  · simp [off]
  · simp [on]
  · simp [on]

/-- How many ISR executions the step from a state is. -/
def isrSteps (s : State) : Nat := if s.env.turn = .interrupt ∧ s.isrEnabled = true then 1 else 0

theorem agentStep_tickCount {s t : State} (width : s.tickCount < 2 ^ s.params.tickWidth)
    (h : agentStep s = .next t) : t.tickCount = (s.tickCount + isrSteps s) % 2 ^ s.params.tickWidth := by
  cases turn : s.env.turn with
  | task =>
    rw [taskStep_tickCount (by simp [turn]) (agentStep_task turn ▸ h)]
    simp [isrSteps, turn, Nat.mod_eq_of_lt width]
  | interrupt =>
    rw [tickIsr_tickCount turn (agentStep_interrupt turn ▸ h)]
    by_cases on : s.isrEnabled = true
    · simp [isrSteps, turn, on, State.nextTick, wrapTo]
    · simp [isrSteps, turn, on, Nat.mod_eq_of_lt width]
  | environment =>
    rw [exec_tickCount (by simp [turn]) (agentStep_environment turn ▸ h)]
    simp [isrSteps, turn, Nat.mod_eq_of_lt width]

theorem step_tickCount {s t : State} (width : s.tickCount < 2 ^ s.params.tickWidth) (h : step s = .next t) :
    t.tickCount = (s.tickCount + isrSteps s) % 2 ^ s.params.tickWidth := by
  obtain ⟨-, -, -, u, agent, rfl⟩ := step_eq_next.1 h
  exact (drawChoices_tickCount u).trans (agentStep_tickCount width agent)

theorem isrCount_succ {k : Nat} {s t : State} (h : step s = .next t) :
    isrCount (k + 1) s = isrSteps s + isrCount k t := by
  rw [isrCount, h]
  rfl

/-- A run of one step more is a step and then the run from the state it reaches. -/
theorem run_succ_eq_next {M : Host.Core} {k : Nat} {s t : M.State} :
    M.run (k + 1) s = .next t ↔ ∃ u, M.step s = .next u ∧ M.run k u = .next t := by
  rw [Host.Core.run]
  cases M.step s <;> simp

/-- Settles O15, by induction on the number of steps: each one adds its own ISR execution, and keeps TICK_WIDTH. -/
theorem tickCounterCountsInterrupts : Obligations.TickCounterCountsInterrupts := by
  intro k
  induction k with
  | zero =>
    intro s t width h
    obtain rfl := next_eq_next.1 h
    exact (Nat.mod_eq_of_lt width).symm
  | succ k ih =>
    intro s t width h
    obtain ⟨u, first, rest⟩ := run_succ_eq_next (M := core).1 h
    obtain ⟨-, params, -⟩ := configurationAndReadinessKept s u first
    have count : u.tickCount = (s.tickCount + isrSteps s) % 2 ^ s.params.tickWidth := step_tickCount width first
    have width' : u.tickCount < 2 ^ u.params.tickWidth := by
      rw [count, params]
      exact Nat.mod_lt _ (Nat.two_pow_pos _)
    rw [ih u t width' rest, params, count, isrCount_succ first, Nat.mod_add_mod, Nat.add_assoc]

end Sys2Proof.Proofs

/-! PROOFS of the statements about the scheduler (spec/41_scheduler.md). First the rhythm of a due flag, by induction on the
ticks over the well-formed slots of R39. Then what an operation that fails a check leaves, and the scheduler operations on
their passing and their faulting paths, the end of a pass, and the steps of an EXTERNAL callback. -/

namespace Sys2Proof.Proofs

open Sys2Proof Sys2Proof.Machine Sys2Proof.Safety Sys2Proof.Laws

/-! ### The rhythm of a due flag (O25) -/

/-- A well-formed slot counts down, and reloads at 1. -/
theorem tickSlot_of_slotOk {p : Config.Params} {sl : Slot} (ok : SlotOk p sl) :
    tickSlot p.timeWidth sl =
      if sl.countdown = 1 then { sl with due := true, countdown := sl.period }
      else { sl with countdown := sl.countdown - 1 } := by
  obtain ⟨-, counts, bound, delayWidth, periodWidth, -⟩ := ok
  exact tickSlot_of_countdown counts (bound.trans_lt (max_lt delayWidth periodWidth))

/-- The next tick marks a well-formed slot due exactly when its countdown is 1. -/
theorem firesNext_iff {p : Config.Params} {sl : Slot} (ok : SlotOk p sl) :
    firesNext p.timeWidth sl = true ↔ sl.countdown = 1 := by
  have cleared : SlotOk p { sl with due := false } := ok
  rw [firesNext, tickSlot_of_slotOk cleared]
  by_cases last : sl.countdown = 1 <;> simp [last]

/-- A well-formed slot is marked due when its countdown has run out, and then every period. -/
theorem firesNext_iterate {p : Config.Params} (n : Nat) {sl : Slot} (ok : SlotOk p sl) :
    firesNext p.timeWidth ((tickSlot p.timeWidth)^[n] sl) = true ↔
      ∃ m : Nat, n + 1 = sl.countdown + m * sl.period := by
  induction n generalizing sl with
  | zero =>
    rw [Function.iterate_zero_apply, firesNext_iff ok]
    obtain ⟨period, counts, -⟩ := ok
    exact ⟨fun last => ⟨0, by omega⟩, fun ⟨m, sum⟩ => by omega⟩
  | succ n ih =>
    rw [Function.iterate_succ_apply, ih (Aged.slotOk (.inr (.inr rfl)) ok), tickSlot_of_slotOk ok]
    obtain ⟨period, counts, -⟩ := ok
    by_cases last : sl.countdown = 1
    · rw [if_pos last, last]
      constructor
      · rintro ⟨m, sum⟩
        exact ⟨m + 1, by rw [Nat.succ_mul]; dsimp only at sum; omega⟩
      · rintro ⟨_ | m, sum⟩
        · omega
        · exact ⟨m, by rw [Nat.succ_mul] at sum; dsimp only; omega⟩
    · rw [if_neg last]
      exact exists_congr fun m => by dsimp only; omega

/-- The countdown of a fresh slot whose field holds the operands: the initial delay, or the period when that is 0 (R122). -/
theorem newSlot_countdown {p : Config.Params} (width : 16 ≤ p.timeWidth) (cb : Byte) (dly per name : Half) :
    (newSlot p cb dly per name).countdown = if dly = 0 then per.toNat else dly.toNat := by
  by_cases noDelay : dly = 0#16 <;> simp [newSlot, noDelay, wrapTo_half width]

theorem newSlot_period {p : Config.Params} (width : 16 ≤ p.timeWidth) (cb : Byte) (dly per name : Half) :
    (newSlot p cb dly per name).period = per.toNat := wrapTo_half width per

/-- Settles O25: the slot that a registration writes is well-formed, and its countdown and period give the rhythm. -/
theorem dueFlagSchedule : Obligations.DueFlagSchedule := fun p cb dly per name n width period => by
  rw [firesNext_iterate n (newSlot_slotOk width cb dly name period), newSlot_countdown width, newSlot_period width]

/-! ### The steps of an EXTERNAL callback (O28) -/

/-- What R138 lets a step of the EXTERNAL callback in slot `i` at continuation `k` change. -/
def ExternalFrame (i k : Nat) (s t : State) : Prop :=
  t = { s with phase := t.phase, delayStart := t.delayStart, hold := t.hold, result := t.result, env := t.env } ∧
    (t.phase = .inCallback i k ∨ t.phase = .inCallback i (k + 1) ∨ t.phase = .dispatch (i + 1)) ∧
    (t.delayStart = s.delayStart ∨ t.delayStart = s.tickCount)

theorem ExternalFrame.drawChoices {i k : Nat} {s t : State} (h : ExternalFrame i k s t) :
    ExternalFrame i k s (drawChoices t) := by
  obtain ⟨frame, place, start⟩ := h
  exact ⟨(congrArg Machine.drawChoices frame).trans rfl, place, start⟩

theorem exec_delayMs {s : State} {ms : Tick} (issued : mayIssue (.delayMs ms) s.context = true) :
    exec (.delayMs ms) s = .next (startDelay ms.toNat s) :=
  checked_of_none (by simp [wrongClass, issued])

theorem startDelay_externalFrame {i k : Nat} {s : State} (callback : s.phase = .inCallback i k) (ms : Nat) :
    ExternalFrame i k s (startDelay ms s) := by
  rcases startDelay_cases ms s with ⟨-, e⟩ | ⟨-, e⟩ <;> rw [e]
  · rw [complete_callback (s := { s with delayStart := s.tickCount }) callback]
    exact ⟨rfl, .inr (.inl rfl), .inr rfl⟩
  · exact ⟨rfl, .inl callback, .inr rfl⟩

/-- Each move of an EXTERNAL callback completes within its frame. -/
theorem externalStep_frame {i k : Nat} {s : State} (h : AtExternal i k s) :
    ∃ t, externalStep i k s = .next t ∧ ExternalFrame i k s t := by
  have context := context_external h
  obtain ⟨-, callback, -⟩ := h
  cases move : s.env.extMove with
  | work => exact ⟨_, externalStep_eq_next.2 (.inl ⟨move, rfl⟩), rfl, .inr (.inl rfl), .inl rfl⟩
  | getTicks =>
    have issued : mayIssue .getTicks s.context = true := by rw [context]; rfl
    have completes := (exec_getTicks issued).trans
      (congrArg _ (complete_callback (s := { s with result := .ticks s.tickCount }) callback))
    exact ⟨_, externalStep_eq_next.2 (.inr (.inl ⟨move, completes⟩)), rfl, .inr (.inl rfl), .inl rfl⟩
  | delay ms =>
    have issued : mayIssue (.delayMs ms) s.context = true := by rw [context]; rfl
    exact ⟨_, externalStep_eq_next.2 (.inr (.inr (.inl ⟨ms, move, exec_delayMs issued⟩))),
      startDelay_externalFrame callback ms.toNat⟩
  | ret => exact ⟨_, externalStep_eq_next.2 (.inr (.inr (.inr ⟨move, rfl⟩))), rfl, .inr (.inr rfl), .inl rfl⟩

/-- Settles O28: the callback's move completes within its frame, and the draw after it writes `env` alone. -/
theorem externalCallbackFrame : Obligations.ExternalCallbackFrame := fun s i k running external idle => by
  obtain ⟨turn, callback, notSequencer⟩ := external
  obtain ⟨t, move, frame⟩ := externalStep_frame ⟨turn, callback, notSequencer⟩
  refine ⟨drawChoices t, ?_, frame.drawChoices⟩
  rw [step_of_taskReady running ⟨turn, idle⟩, phaseStep_of_external callback notSequencer, move, mapNext_next]

/-! ### Registration (O16, O17, O18, O19) -/

/-- An operation whose checks fail, in a block without a fault, records the first failing check and halts. -/
theorem checked_of_fault {cs : List (Bool × FaultCode)} {s : State} {body : Result} (c : FaultCode)
    (noFault : s.fault = 0) (first : firstFault cs = some c) :
    checked cs s body = .next { s with fault := c.code, phase := .halted } :=
  (checked_of_some first).trans (congrArg _ (raiseFault_of_running c noFault))

/-- Settles O16: before IRQ_ENABLE and MAIN_LOOP a boot SCHED_INIT passes its checks. -/
theorem schedInitEmptiesRegistry : Obligations.SchedInitEmptiesRegistry := fun s boot masked early =>
  checked_of_none (by simp [wrongClass, mayIssue, context_boot boot, masked, early])

theorem isSequencer_iff {cb : Byte} : isSequencer cb = true ↔ cb = 0#8 := beq_iff_eq

/-- SCHED_ADD_TASK that passes its checks registers the task (R122). -/
theorem exec_schedAddTask {s : State} {cb : Byte} {dly per name : Half} (boot : AtBoot s) (ready : s.schedReady = true)
    (masked : s.irqEnabled = false) (early : s.mainEntered = false) (listed : cb.toNat < s.params.numCallbacks)
    (period : per ≠ 0) (single : cb = 0 → s.seqRegistered = false) (room : s.taskCount ≠ s.params.maxTasks) :
    exec (.schedAddTask cb dly per name) s = .next (nextWord (registerTask cb dly per name s)) := by
  have single : isSequencer cb = true → s.seqRegistered = false := fun h => single (isSequencer_iff.1 h)
  have period : per ≠ 0#16 := period
  exact checked_of_none (by
    simpa [wrongClass, mayIssue, context_boot boot, ready, masked, early, not_le.2 listed, period, room] using single)

/-- Settles O17: the registration writes the first free slot and counts it. -/
theorem schedAddTaskRegisters : Obligations.SchedAddTaskRegisters := by
  intro s cb dly per name boot ready masked early listed period single notFull room
  have slot : ∀ j, (nextWord (registerTask cb dly per name s)).slotAt j =
      if j = s.taskCount.toNat then newSlot s.params cb dly per name else s.slotAt j :=
    slotAt_registerTask cb dly per name room
  refine ⟨_, exec_schedAddTask boot ready masked early listed period single notFull, ?frame, ?new,
    fun j other => (slot j).trans (if_neg other)⟩
  case frame => by_cases sequencer : cb = 0#8 <;> simp [nextWord, registerTask, State.setSlot, isSequencer, sequencer]
  case new =>
    rw [slot, if_pos rfl]
    by_cases noDelay : dly = 0#16 <;> simp [newSlot, wrapTo, noDelay]

/-- Settles O18: along the priority order, each failing check is the first one when those before it pass. -/
theorem schedAddTaskFaultPriority : Obligations.SchedAddTaskFaultPriority := by
  intro s cb dly per name c boot noFault code faults
  have context := context_boot boot
  simp only [BitVec.ofNat_eq_ofNat, ← isSequencer_iff] at code
  split_ifs at code with notReady late unlisted period duplicate full <;> subst code
  · exact checked_of_fault .notReady noFault (by simp [wrongClass, mayIssue, context, notReady])
  · exact checked_of_fault .lateConfig noFault (by simp [wrongClass, mayIssue, context, notReady, late])
  · exact checked_of_fault .badCallback noFault (by simp [wrongClass, mayIssue, context, notReady, late, unlisted])
  · exact checked_of_fault .badPeriod noFault (by
      simp [wrongClass, mayIssue, context, notReady, late, unlisted, period])
  · exact checked_of_fault .dupSequencer noFault (by
      simp [wrongClass, mayIssue, context, notReady, late, unlisted, period, duplicate])
  · exact checked_of_fault .capacity noFault (by
      simp [wrongClass, mayIssue, context, notReady, late, unlisted, period, duplicate, full])
  · exact absurd rfl faults

/-- Settles O19: past the class check, which a boot word passes, LATE_CONFIG is the first fault of both. -/
theorem lateConfigurationFaults : Obligations.LateConfigurationFaults := by
  refine fun s boot noFault => ⟨fun late => ?init, fun enabled => ?periph⟩
  case init =>
    exact checked_of_fault .lateConfig noFault (by simp [wrongClass, mayIssue, context_boot boot, late])
  case periph =>
    exact checked_of_fault .lateConfig noFault (by simp [wrongClass, mayIssue, context_boot boot, enabled])

/-! ### The tick (O20) -/

/-- SCHED_TICK inside TICK_ISR after SCHED_INIT passes its checks. -/
theorem exec_schedTick {s : State} (turn : s.env.turn = .interrupt) (inside : s.inIsr = true)
    (ready : s.schedReady = true) :
    exec .schedTick s = .next { s with slots := tickSlots s.params.timeWidth s.taskCount.toNat s.slots } := by
  have context : s.context = .interrupt := by simp [State.context, turn]
  have passes : firstFault [wrongClass .schedTick s] = none := by simp [wrongClass, mayIssue, context]
  exact (checked_of_none passes).trans (by rw [schedTickOp_ok.2 ⟨inside, ready, rfl⟩])

/-- Settles O20: the tick reaches the registered slots alone. -/
theorem schedTickDecrementsAndMarks : Obligations.SchedTickDecrementsAndMarks := fun _ turn inside ready =>
  ⟨_, exec_schedTick turn inside ready, rfl,
    fun i registered allocated => (slotAt_tick rfl i).trans (if_pos ⟨registered, allocated⟩),
    fun i free => (slotAt_tick rfl i).trans (if_neg fun ⟨registered, _⟩ => free.not_gt registered)⟩

/-! ### Passes (O21, O23, O24) -/

/-- The class check of SCHED_DISPATCH passes for every position of a running task context (log entry 17). -/
theorem exec_schedDispatch {s : State} (turn : s.env.turn = .task) (running : s.phase ≠ .halted) :
    exec .schedDispatch s = startPass s := by
  have issued : mayIssue .schedDispatch s.context = true := by
    cases phase : s.phase with
    | inCallback i k =>
      rw [context_callback turn phase]
      split <;> rfl
    | halted => exact absurd phase running
    | _ => simp [mayIssue, State.context, turn, phase]
  exact checked_of_none (by simp [wrongClass, issued])

/-- Settles O21: outside a pass and a callback the start of a pass passes its checks. -/
theorem schedDispatchStartsPass : Obligations.SchedDispatchStartsPass := by
  intro s turn place ready outside
  have running : s.phase ≠ .halted := by rcases place with boot | wait <;> simp [*]
  have notCallback : s.phase.isCallback = false := by rcases place with boot | wait <;> simp [*, Phase.isCallback]
  exact (exec_schedDispatch turn running).trans (startPass_eq_next.2 (.inl ⟨ready, notCallback, outside, rfl⟩))

/-- Settles O23: SCHED_DISPATCH fails a check of `startPass`, and SCHED_DISPATCH_SLOT the first of its own that the place
does not meet. -/
theorem dispatchFaults : Obligations.DispatchFaults := by
  intro s turn running noFault
  have context : ∀ {j}, s.phase = .dispatch j → s.context = .dispatch := fun pass => by simp [State.context, turn, pass]
  refine ⟨fun notReady => ?notReady, fun ready inside => ?reentrant, fun slot j pass inside ready free => ?badOperand,
    fun slot j pass inside notReady => ?slotNotReady, fun slot j pass outside => ?wrongContext⟩
  case notReady =>
    rw [exec_schedDispatch turn running]
    exact checked_of_fault .notReady noFault (by simp [notReady])
  case reentrant =>
    have inside : s.phase.isCallback = true ∨ s.inDispatch = true :=
      inside.symm.imp_left fun ⟨i, k, callback⟩ => by rw [callback]; rfl
    rw [exec_schedDispatch turn running]
    exact checked_of_fault .reentrant noFault (by simp [ready, inside])
  case badOperand =>
    exact checked_of_fault .badOperand noFault (by
      simp [wrongClass, mayIssue, context pass, inside, ready, State.registered, free])
  case slotNotReady =>
    exact checked_of_fault .notReady noFault (by simp [wrongClass, mayIssue, context pass, inside, notReady])
  case wrongContext =>
    exact checked_of_fault .wrongContext noFault (by simp [wrongClass, mayIssue, context pass, outside])

/-- Settles O24: past the last slot the pass ends, in the one of two ways that `main_entered` selects. -/
theorem passEnds : Obligations.PassEnds := fun s running ready inPass tested => by
  obtain ⟨-, -, -, -, endOfPass, -⟩ := stepRunsTheContextsOperation s running
  rw [endOfPass ready inPass tested]
  rcases endPass_cases s with ⟨main, ends⟩ | ⟨boot, ends⟩
  · rw [ends, if_pos main]
  · rw [ends, if_neg (by simp [boot])]

end Sys2Proof.Proofs

/-! PROOFS of the statements about the power sequencer (spec/42_power_sequencer.md). First the relay invariant: what each
micro-step of the table does to the stage of its power state, what the invariant asks of a block at rest and of one inside
an invocation, and what each agent keeps. Then the record, the edges, the phase timer and the single micro-step, whole
invocations as runs of their listed output micro-steps, and the faults of the I/O operations. -/

namespace Sys2Proof.Proofs

open Sys2Proof Sys2Proof.Machine Sys2Proof.Safety Sys2Proof.Laws

/-! ### The stages of the table (O58, O59) -/

/-- A stage asks for more the further an invocation has come. -/
theorem stageOk_mono {timer k j : Nat} {o : Outputs} {p : PowerState} (h : StageOk timer k o p) (le : j ≤ k) :
    StageOk timer j o p := by
  have past : ∀ n, n ≤ j → n ≤ k := fun _ => le.trans'
  cases p <;> simp only [StageOk] at h ⊢ <;> grind

/-- The sample of micro-step 0 leads to a stage that asks for nothing new. -/
theorem stageOk_first {timer : Nat} {o : Outputs} {p : PowerState} (h : StageOk timer 0 o p) : StageOk timer 1 o p := by
  cases p with
  | invalid => exact h.elim
  | _ => simpa [StageOk] using h

/-- The end of the settle delay leaves the latches of SPEAKER_PRECHARGE as they are. -/
theorem stageOk_settled {timer : Nat} {o : Outputs} (h : StageOk timer 2 o .speakerPrecharge) :
    StageOk timer 3 o .speakerPrecharge := by
  simpa [StageOk] using h

/-- A stage reads the relays alone. -/
theorem stageOk_congr {timer k : Nat} {o o' : Outputs} {p : PowerState} (h : StageOk timer k o p)
    (neutral : o'.neutral = o.neutral) (liveRes : o'.liveRes = o.liveRes) (liveDirect : o'.liveDirect = o.liveDirect) :
    StageOk timer k o' p := by
  cases p with
  | invalid => exact h.elim
  | _ => simpa only [StageOk, neutral, liveRes, liveDirect] using h

/-- The power state that a transition goes to. -/
def Transition.target : Transition → PowerState
  | .goto p => p
  | .gotoIfEdge p => p
  | .tickPhase _ p => p

/-- What a micro-step, number `k` of an invocation in power state `p`, does to the stage: an output micro-step reaches the
next one, only the settle delay of SPEAKER_PRECHARGE holds, and the last one leaves latches at which the state may rest
with any timer and its target may start. -/
def MicroOk (p : PowerState) (timer k : Nat) : Micro → Prop
  | .write id v => ∀ o, StageOk timer k o p → StageOk timer (k + 1) (o.set id v) p
  | .blinkLed => ∀ o v, StageOk timer k o p → StageOk timer (k + 1) (o.set .led v) p
  | .settle => k = 2 ∧ p = .speakerPrecharge
  | .finish tr => ∀ o, StageOk timer k o p →
      (∀ timer', StageOk timer' 0 o p) ∧ Transition.target tr ≠ .invalid ∧ StageOk 0 0 o (Transition.target tr)

/-- The table of R159 to R168, row by row: every listed micro-step keeps the stages. -/
theorem microProgram_microOk {ps : Config.Params} {p : PowerState} {timer j : Nat} {m : Micro}
    (listed : (microProgram ps p)[j]? = some m) : MicroOk p timer (j + 1) m := by
  have row : ∀ x ∈ (microProgram ps p).zipIdx 1, MicroOk p timer x.2 x.1 := by
    cases p <;>
      simp only [microProgram, allOffMicros, allOffOrder, List.map_cons, List.map_nil, List.cons_append, List.nil_append,
        List.zipIdx_cons, List.zipIdx_nil, List.forall_mem_cons, List.not_mem_nil, false_implies, implies_true] <;>
      and_intros
    all_goals simp only [MicroOk, StageOk, Outputs.set, Transition.target] <;> grind
  have numbered := row (m, 1 + j) (List.mk_add_mem_zipIdx_iff_getElem?.2 listed)
  rwa [Nat.add_comm] at numbered

/-- After the last micro-step the stage holds at rest, whether the transition stays, counts or goes to its target. -/
theorem applyTransition_stage {s : State} {tr : Transition} (valid : PowerState.ofBits s.pstate ≠ .invalid)
    (rest : ∀ timer, StageOk timer 0 s.out (PowerState.ofBits s.pstate)) (target : Transition.target tr ≠ .invalid)
    (start : StageOk 0 0 s.out (Transition.target tr)) :
    PowerState.ofBits (applyTransition tr s).pstate ≠ .invalid ∧
      StageOk (applyTransition tr s).phaseTimer 0 s.out (PowerState.ofBits (applyTransition tr s).pstate) := by
  rcases applyTransition_cases tr s with ⟨p, goes, e⟩ | ⟨p, -, -, e⟩ | ⟨n, p, -, -, e⟩ <;> rw [e]
  · have arrives : p = Transition.target tr := by
      rcases goes with rfl | ⟨rfl, -⟩ | ⟨n, rfl, -⟩ <;> rfl
    rw [gotoState_pstate, gotoState_phaseTimer, ofBits_toBits, arrives]
    exact ⟨target, start⟩
  · exact ⟨valid, rest _⟩
  · exact ⟨valid, rest _⟩

/-! ### The relay invariant, at rest and inside an invocation (O58) -/

/-- No word of the program writes a relay or runs a pass. -/
def WordsOk (program : List OpWord) : Prop :=
  (∀ w ∈ program, ∀ id lvl, decode w ≠ some (.setRelay id lvl)) ∧ ∀ w ∈ program, decode w ≠ some .schedDispatch

/-- The relay invariant without the position of the task context: what it says of a block whose sequencer is at rest. -/
structure RelayCore (s : State) : Prop where
  words : WordsOk s.program
  boot_off : s.mainEntered = false → s.pstate = 0 ∧
    (s.periphReady = true → s.out.neutral = false ∧ s.out.liveRes = false ∧ s.out.liveDirect = false)
  stage : s.periphReady = true → StageOk s.phaseTimer 0 s.out (PowerState.ofBits s.pstate)
  valid : PowerState.ofBits s.pstate ≠ .invalid

theorem relayInv_core {s : State} (hs : RelayInv s) : RelayCore s :=
  ⟨⟨hs.no_relay_word, hs.no_boot_pass⟩, hs.boot_off, fun ready => stageOk_mono (hs.stage ready) (Nat.zero_le _),
    hs.stage_valid⟩

/-- MAIN_LOOP is entered wherever the task context is not running a boot word. -/
theorem relayInv_entered {s : State} (hs : RelayInv s) (running : s.phase ≠ .halted)
    (place : s.phase ≠ .boot ∨ s.inDispatch = true) : s.mainEntered = true := by
  by_contra early
  rcases hs.boot_phase (by simpa using early) with ⟨boot, outside⟩ | halted
  · exact place.elim (absurd boot) (by simp [outside])
  · exact running halted

theorem seqMicro_of_callback {s : State} {i k : Nat} (callback : s.phase = .inCallback i k) :
    seqMicro s = if isSequencer (s.slotAt i).cb then k else 0 := by
  simp [seqMicro, callback]

/-- No invocation is past its micro-step 0. -/
def AtRest (s : State) : Prop :=
  ∀ i k, s.phase = .inCallback i k → isSequencer (s.slotAt i).cb = true → k = 0 ∧ s.hold = .none

theorem atRest_of_phase {s : State} {p : Phase} (phase : s.phase = p) (outside : p.isCallback = false) : AtRest s :=
  fun i k callback => by
    rw [← phase, callback] at outside
    simp [Phase.isCallback] at outside

theorem AtRest.seqMicro {s : State} (h : AtRest s) : seqMicro s = 0 := by
  cases phase : s.phase with
  | inCallback i k =>
    rw [seqMicro_of_callback phase]
    split
    · next sequencer => exact (h i k phase sequencer).1
    · rfl
  | _ => simp [Safety.seqMicro, phase]

/-- Outside an invocation the invariant asks for the core and, before MAIN_LOOP, for the boot program's place. -/
theorem relayInv_of_rest {s : State} (core : RelayCore s) (rest : AtRest s)
    (early : s.mainEntered = false → (s.phase = .boot ∧ s.inDispatch = false) ∨ s.phase = .halted)
    (main : s.mainEntered = true → s.phase = .boot → s.inDispatch = true ∧ s.hold = .none) : RelayInv s := by
  obtain ⟨⟨relay, pass⟩, off, stage, valid⟩ := core
  exact
    { no_relay_word := relay, no_boot_pass := pass, boot_phase := early, main_phase := main, boot_off := off
      ready := fun inside => by simp [rest.seqMicro] at inside
      settle := fun i k callback sequencer hold => absurd (rest i k callback sequencer).2 hold
      stage := fun ready => rest.seqMicro ▸ stage ready
      stage_valid := valid }

/-- Inside an invocation it asks for the stage of its micro-step. -/
theorem relayInv_of_micro {s : State} {i k : Nat} (words : WordsOk s.program) (entered : s.mainEntered = true)
    (callback : s.phase = .inCallback i k) (ready : s.periphReady = true)
    (valid : PowerState.ofBits s.pstate ≠ .invalid) (stage : StageOk s.phaseTimer k s.out (PowerState.ofBits s.pstate))
    (settle : s.hold ≠ .none → k = 2 ∧ PowerState.ofBits s.pstate = .speakerPrecharge) : RelayInv s where
  no_relay_word := words.1
  no_boot_pass := words.2
  boot_phase := by simp [entered]
  main_phase := by simp [callback]
  boot_off := by simp [entered]
  ready := fun _ => ready
  settle := fun j n callback' _ hold => by
    obtain ⟨-, rfl⟩ := Phase.inCallback.inj (callback.symm.trans callback')
    obtain ⟨second, precharge⟩ := settle hold
    exact ⟨second, ready, precharge⟩
  stage := fun _ => stageOk_mono stage (by rw [seqMicro_of_callback callback]; split <;> omega)
  stage_valid := valid

/-- The two states agree in what the core reads, but that MAIN_LOOP may have been entered. -/
structure RelaysKept (s t : State) : Prop where
  program : t.program = s.program
  entered : t.mainEntered = false → s.mainEntered = false
  ready : t.periphReady = s.periphReady
  pstate : t.pstate = s.pstate
  timer : t.phaseTimer = s.phaseTimer
  neutral : t.out.neutral = s.out.neutral
  liveRes : t.out.liveRes = s.out.liveRes
  liveDirect : t.out.liveDirect = s.out.liveDirect

theorem RelayCore.kept {s t : State} (core : RelayCore s) (h : RelaysKept s t) : RelayCore t where
  words := h.program ▸ core.words
  boot_off := fun early => by
    simpa only [h.pstate, h.ready, h.neutral, h.liveRes, h.liveDirect] using core.boot_off (h.entered early)
  stage := fun ready => by
    rw [h.timer, h.pstate]
    exact stageOk_congr (core.stage (h.ready ▸ ready)) h.neutral h.liveRes h.liveDirect
  valid := h.pstate ▸ core.valid

/-- A step that moves neither the task context nor what the invariant reads, and gives no slot another callback. -/
theorem relayInv_of_still {s t : State} (hs : RelayInv s) (kept : RelaysKept s t)
    (entered : t.mainEntered = s.mainEntered) (phase : t.phase = s.phase) (inDispatch : t.inDispatch = s.inDispatch)
    (hold : t.hold = s.hold) (callbacks : ∀ i, (t.slotAt i).cb = (s.slotAt i).cb) : RelayInv t := by
  have micro : seqMicro t = seqMicro s := by simp only [seqMicro, phase, callbacks]
  obtain ⟨⟨relay, pass⟩, off, -, valid⟩ := (relayInv_core hs).kept kept
  exact
    { no_relay_word := relay, no_boot_pass := pass, boot_off := off, stage_valid := valid
      boot_phase := by simpa only [entered, phase, inDispatch] using hs.boot_phase
      main_phase := by simpa only [entered, phase, inDispatch, hold] using hs.main_phase
      ready := by simpa only [micro, kept.ready] using hs.ready
      settle := by simpa only [phase, callbacks, hold, kept.ready, kept.pstate] using hs.settle
      stage := fun ready => by
        rw [micro, kept.timer, kept.pstate]
        exact stageOk_congr (hs.stage (kept.ready ▸ ready)) kept.neutral kept.liveRes kept.liveDirect }

theorem relayInv_of_halted {s : State} (core : RelayCore s) (halted : s.phase = .halted) : RelayInv s :=
  relayInv_of_rest core (atRest_of_phase halted rfl) (fun _ => .inr halted) (by simp [halted])

/-- A fault halts the block and writes no relay. -/
theorem raiseFault_relayInv {s : State} (core : RelayCore s) (c : FaultCode) : RelayInv (raiseFault c s) :=
  relayInv_of_halted (core.kept (by constructor <;> simp)) rfl

/-- An operation keeps the invariant when its effect does. -/
theorem executes_relayInv {i : Instr} {s t : State} (core : RelayCore s) (h : exec i s = .next t)
    (effect : Effect s i t → RelayInv t) : RelayInv t := by
  rcases exec_executes h with ⟨c, -, rfl⟩ | h
  · exact raiseFault_relayInv core c
  · exact effect h

/-! ### The relay invariant across a step of each agent (O58) -/

theorem timerFire_relayInv {s t : State} (hs : RelayInv s) (h : Effect s .timerFire t) : RelayInv t := by
  cases h with
  | timerFire pending => exact relayInv_of_still hs (by constructor <;> simp) rfl rfl rfl rfl fun _ => rfl

theorem tickIsr_relayInv {s t : State} (hs : RelayInv s) (h : Effect s .tickIsr t) : RelayInv t := by
  cases h with
  | tickIsrIdle => exact hs
  | tickIsr => exact relayInv_of_still hs (by constructor <;> simp [ticked]) rfl rfl rfl rfl (ticked_slotAt_cb s)
  | tickIsrNotReady => exact raiseFault_relayInv ((relayInv_core hs).kept (by constructor <;> simp)) .notReady

/-- The boot program goes on, or holds, with the relays as they were. -/
theorem relayInv_of_boot {s t : State} (core : RelayCore s) (kept : RelaysKept s t) (early : t.mainEntered = false)
    (boot : t.phase = .boot) (outside : t.inDispatch = false) : RelayInv t :=
  relayInv_of_rest (core.kept kept) (atRest_of_phase boot rfl) (fun _ => .inl ⟨boot, outside⟩) (by simp [early])

theorem complete_phase_of_boot {s : State} (boot : s.phase = .boot) : (complete s).phase = .boot := by
  rw [complete_boot boot, boot]

theorem startDelay_phase_of_boot {s : State} (ms : Nat) (boot : s.phase = .boot) : (startDelay ms s).phase = .boot := by
  rcases startDelay_cases ms s with ⟨-, e⟩ | ⟨-, e⟩ <;> rw [e]
  · exact complete_phase_of_boot boot
  · exact boot

/-- In the OFF state, before MAIN_LOOP, released relays are all that the core asks for. -/
theorem relayCore_of_released {s t : State} (core : RelayCore s) (early : s.mainEntered = false)
    (program : t.program = s.program) (pstate : t.pstate = s.pstate) (neutral : t.out.neutral = false)
    (liveRes : t.out.liveRes = false) (liveDirect : t.out.liveDirect = false) : RelayCore t := by
  obtain ⟨off, -⟩ := core.boot_off early
  have off : t.pstate = 0 := pstate.trans off
  refine ⟨program ▸ core.words, fun _ => ⟨off, fun _ => ⟨neutral, liveRes, liveDirect⟩⟩, fun _ => ?_,
    pstate ▸ core.valid⟩
  rw [off]
  exact ⟨liveRes, liveDirect⟩

theorem periphInit_relayInv {s t : State} (hs : RelayInv s) (early : s.mainEntered = false)
    (outside : s.inDispatch = false) (h : Effect s .periphInit t) : RelayInv t := by
  cases h with
  | periphInit boot =>
    rw [clearOutputs_allOff]
    refine relayInv_of_rest (relayCore_of_released (relayInv_core hs) early rfl rfl rfl rfl rfl)
      (atRest_of_phase boot rfl) (fun _ => .inl ⟨boot, outside⟩) ?_
    simp [early]

/-- An operation of the boot program writes no relay and goes on in the boot program; PERIPH_INIT releases them, and
MAIN_LOOP enters its first pass. -/
theorem bootEffect_relayInv {i : Instr} {s t : State} (hs : RelayInv s) (early : s.mainEntered = false)
    (boot : s.phase = .boot) (outside : s.inDispatch = false) (idle : s.hold = .none) (h : Effect s i t)
    (noRelay : ∀ id lvl, i ≠ .setRelay id lvl) (noPass : i ≠ .schedDispatch) (noMicro : i ≠ .pseqStep) : RelayInv t := by
  have core := relayInv_core hs
  have goesOn {t : State} (kept : RelaysKept s t) (entered : t.mainEntered = s.mainEntered)
      (phase : t.phase = .boot) (inDispatch : t.inDispatch = s.inDispatch) : RelayInv t :=
    relayInv_of_boot core kept (entered.trans early) phase (inDispatch.trans outside)
  cases h with
  | periphInit => exact periphInit_relayInv hs early outside (.periphInit boot)
  | mainLoop =>
    exact relayInv_of_rest (core.kept (by constructor <;> simp)) (atRest_of_phase boot rfl) (by simp)
      (fun _ _ => ⟨rfl, idle⟩)
  | mainLoopFault => exact raiseFault_relayInv (core.kept (by constructor <;> simp)) _
  | timerFire pending => exact timerFire_relayInv hs (.timerFire pending)
  | tickIsrIdle => exact hs
  | tickIsr => exact tickIsr_relayInv hs .tickIsr
  | tickIsrNotReady => exact tickIsr_relayInv hs .tickIsrNotReady
  | schedDispatchSlot inside => simp [boot] at inside
  | schedDispatch => exact absurd rfl noPass
  | setRelay => exact absurd rfl (noRelay _ _)
  | sample | microWrite | microBlink | microSettle | microFinish | microEnd => exact absurd rfl noMicro
  | delayMs => exact goesOn (by constructor <;> simp) (by simp) (startDelay_phase_of_boot _ boot) (by simp)
  | readButton | getTicks => exact goesOn (by constructor <;> simp) (by simp) (complete_phase_of_boot boot) (by simp)
  | setLed => exact goesOn (by constructor <;> simp [Outputs.set]) (by simp) (complete_phase_of_boot boot) (by simp)
  | _ => exact goesOn (by constructor <;> simp [registerTask]) rfl boot rfl

/-- PSEQ_STEP outside a callback faults. -/
theorem pseqStep_at_boot {s : State} (boot : s.phase = .boot) :
    exec .pseqStep s = .next (raiseFault .wrongContext s) := by
  simp only [exec, execPseqStep, boot, raised]

theorem fetchStep_relayInv {s t : State} (hs : RelayInv s) (boot : s.phase = .boot) (outside : s.inDispatch = false)
    (idle : s.hold = .none) (h : fetchStep s = .next t) : RelayInv t := by
  have core := relayInv_core hs
  have early : s.mainEntered = false := by
    by_contra entered
    obtain ⟨inside, -⟩ := hs.main_phase (by simpa using entered) boot
    simp [inside] at outside
  obtain ⟨w, fetch, ⟨-, rfl⟩ | ⟨i, decoded, h⟩⟩ := fetchStep_eq_next.1 h
  · exact raiseFault_relayInv core _
  have word : w ∈ s.program := List.mem_of_getElem? fetch
  by_cases micro : i = .pseqStep
  · subst micro
    obtain rfl := next_eq_next.1 ((pseqStep_at_boot boot).symm.trans h)
    exact raiseFault_relayInv core _
  · exact executes_relayInv core h fun effect =>
      bootEffect_relayInv hs early boot outside idle effect
        (fun id lvl e => hs.no_relay_word w word id lvl (e ▸ decoded))
        (fun e => hs.no_boot_pass w word (e ▸ decoded)) micro

/-- Once MAIN_LOOP is entered, latches that an invocation may leave are kept at every other place of the task context. -/
theorem relayInv_of_main {s t : State} (core : RelayCore s) (kept : RelaysKept s t) (entered : t.mainEntered = true)
    (notBoot : t.phase ≠ .boot) (rest : AtRest t) : RelayInv t :=
  relayInv_of_rest (core.kept kept) rest (by simp [entered]) fun _ boot => absurd boot notBoot

/-- A pass tests its next slot, whose invocation then stands at micro-step 0, or ends in the main loop's wait. -/
theorem passStep_relayInv {s t : State} (hs : RelayInv s) (entered : s.mainEntered = true) (idle : s.hold = .none)
    (h : passStep s = .next t) : RelayInv t := by
  have core := relayInv_core hs
  rcases passStep_eq_next.1 h with ⟨-, h⟩ | ⟨-, rfl⟩
  · refine executes_relayInv (core.kept (by constructor <;> simp)) h fun effect => ?_
    cases effect with
    | schedDispatchSlot =>
      refine relayInv_of_main core (by constructor <;> simp) entered ?_ fun j k callback _ => ?_
      · dsimp only
        split <;> simp
      · dsimp only at callback
        split at callback <;> simp_all
  · rcases endPass_cases s with ⟨-, e⟩ | ⟨early, -⟩
    · rw [e]
      exact relayInv_of_main core (by constructor <;> simp) entered (by simp) (atRest_of_phase rfl rfl)
    · simp [entered] at early

/-- What a micro-step of PSEQ_STEP may write: the continuation, the hold, the sequencer record and the outputs. -/
def MicroFrame (s t : State) : Prop :=
  t = { s with phase := t.phase, hold := t.hold, delayStart := t.delayStart, edge := t.edge,
               prevPressed := t.prevPressed, blink := t.blink, pstate := t.pstate, phaseTimer := t.phaseTimer,
               out := t.out, outLog := t.outLog }

/-- A micro-step moves on to the next one, at whose stage the relays stand. -/
theorem relayInv_of_nextMicro {s u : State} {i k : Nat} (hs : RelayInv s) (entered : s.mainEntered = true)
    (ready : s.periphReady = true) (frame : MicroFrame s u) (callback : u.phase = .inCallback i k)
    (idle : u.hold = .none) (pstate : u.pstate = s.pstate)
    (stage : StageOk u.phaseTimer (k + 1) u.out (PowerState.ofBits s.pstate)) : RelayInv (complete u) := by
  have program : u.program = s.program := by rw [frame]
  have entered' : u.mainEntered = s.mainEntered := by rw [frame]
  have ready' : u.periphReady = s.periphReady := by rw [frame]
  rw [complete_callback callback]
  exact relayInv_of_micro (program ▸ (relayInv_core hs).words) (entered'.trans entered) rfl (ready'.trans ready)
    (pstate ▸ hs.stage_valid) (pstate ▸ stage) fun hold => absurd idle hold

/-- An invocation returns at rest. -/
theorem relayInv_of_return {s u : State} {i : Nat} (hs : RelayInv s) (entered : s.mainEntered = true)
    (frame : MicroFrame s u) (valid : PowerState.ofBits u.pstate ≠ .invalid)
    (stage : StageOk u.phaseTimer 0 u.out (PowerState.ofBits u.pstate)) : RelayInv (returnFromCallback i u) := by
  have program : u.program = s.program := by rw [frame]
  have entered' : u.mainEntered = true := by rw [frame, entered]
  exact relayInv_of_rest ⟨program ▸ (relayInv_core hs).words, by simp [entered'], fun _ => stage, valid⟩
    (atRest_of_phase rfl rfl) (by simp [entered']) (by simp)

theorem applyTransition_microFrame (tr : Transition) (s : State) : MicroFrame s (applyTransition tr s) := by
  rcases applyTransition_cases tr s with ⟨p, -, e⟩ | ⟨p, -, -, e⟩ | ⟨n, p, -, -, e⟩ <;> rw [e] <;> rfl

/-- A micro-step of the sequencer reaches the next stage, holds at the settle delay, or ends the invocation. -/
theorem microStep_relayInv {s : State} {i k : Nat} (hs : RelayInv s) (callback : s.phase = .inCallback i k)
    (sequencer : isSequencer (s.slotAt i).cb = true) (idle : s.hold = .none) (ready : s.periphReady = true) :
    RelayInv (microStep i k s) := by
  have entered : s.mainEntered = true := relayInv_entered hs (by simp [callback]) (.inl (by simp [callback]))
  have stage : StageOk s.phaseTimer k s.out (PowerState.ofBits s.pstate) := by
    have stage := hs.stage ready
    rwa [seqMicro_of_callback callback, if_pos sequencer] at stage
  have next {u : State} := relayInv_of_nextMicro (i := i) (k := k) (u := u) hs entered ready
  rcases microStep_cases i k s with ⟨rfl, e⟩ | ⟨j, rfl, ⟨m, listed, e⟩ | ⟨-, e⟩⟩ <;> rw [e]
  · exact next rfl callback idle rfl (stageOk_first stage)
  · have ok := microProgram_microOk (timer := s.phaseTimer) listed
    cases m with
    | write id v => exact next rfl callback idle rfl (ok s.out stage)
    | blinkLed => exact next rfl callback idle rfl (ok s.out (!s.blink) stage)
    | settle =>
      obtain ⟨second, precharge⟩ := ok
      rcases startDelay_cases s.params.settleMs s with ⟨-, e⟩ | ⟨-, e⟩ <;> rw [runMicro, e]
      · refine next rfl callback idle rfl ?_
        rw [second, precharge] at stage ⊢
        exact stageOk_settled stage
      · exact relayInv_of_micro (relayInv_core hs).words entered callback ready hs.stage_valid stage
          fun _ => ⟨second, precharge⟩
    | finish tr =>
      obtain ⟨rest, target, start⟩ := ok s.out stage
      obtain ⟨valid, stage⟩ := applyTransition_stage hs.stage_valid rest target start
      exact relayInv_of_return hs entered (applyTransition_microFrame tr s) valid
        (by rwa [applyTransition_out])
  · exact relayInv_of_return hs entered rfl hs.stage_valid (stageOk_mono stage (Nat.zero_le _))

theorem pseqStep_relayInv {s t : State} {i k : Nat} (hs : RelayInv s) (turn : s.env.turn = .task)
    (callback : s.phase = .inCallback i k) (sequencer : isSequencer (s.slotAt i).cb = true) (idle : s.hold = .none)
    (h : exec .pseqStep s = .next t) : RelayInv t := by
  have inside : 0 < k → s.periphReady = true := fun later =>
    hs.ready (by rwa [seqMicro_of_callback callback, if_pos sequencer])
  rw [pseqStep_eq ⟨turn, callback, isSequencer_iff.1 sequencer⟩] at h
  split at h <;> obtain rfl := next_eq_next.1 h
  · exact raiseFault_relayInv (relayInv_core hs) _
  · next passes =>
    refine microStep_relayInv hs callback sequencer idle ?_
    rcases Nat.eq_zero_or_pos k with first | later
    · simpa [first] using passes
    · exact inside later

theorem externalStep_relayInv {s t : State} {i k : Nat} (hs : RelayInv s) (turn : s.env.turn = .task)
    (callback : s.phase = .inCallback i k) (external : isSequencer (s.slotAt i).cb = false)
    (h : externalStep i k s = .next t) : RelayInv t := by
  have entered : s.mainEntered = true := relayInv_entered hs (by simp [callback]) (.inl (by simp [callback]))
  obtain ⟨u, e, frame, place, -⟩ := externalStep_frame ⟨turn, callback, beq_eq_false_iff_ne.1 external⟩
  obtain rfl := next_eq_next.1 (e.symm.trans h)
  have kept : RelaysKept s t := by rw [frame]; constructor <;> simp
  have entered' : t.mainEntered = true := by rw [frame, entered]
  have slots : t.slots = s.slots := by rw [frame]
  refine relayInv_of_main (relayInv_core hs) kept entered' ?_ fun j n inCallback sequencer => ?_
  · rcases place with e | e | e <;> simp [e]
  · rw [slotAt_congr slots] at sequencer
    rcases place with e | e | e <;> cases inCallback.symm.trans e <;> exact absurd sequencer (by simp [external])

/-- The end of a hold completes a boot word, an EXTERNAL callback's delay, or the settle delay of an invocation (R162). -/
theorem endHold_relayInv {s : State} (hs : RelayInv s) (running : s.phase ≠ .halted) (hold : s.hold ≠ .none) :
    RelayInv (endHold s) := by
  have core := relayInv_core hs
  cases phase : s.phase with
  | boot =>
    have early : s.mainEntered = false := by
      by_contra entered
      obtain ⟨-, idle⟩ := hs.main_phase (by simpa using entered) phase
      exact hold idle
    obtain ⟨-, outside⟩ := (hs.boot_phase early).resolve_right running
    exact relayInv_of_boot core (by constructor <;> simp) (by simp [early])
      (complete_phase_of_boot (s := { s with hold := .none }) phase) (by simp [outside])
  | inCallback i k =>
    have entered := relayInv_entered hs running (.inl (by simp [phase]))
    by_cases sequencer : isSequencer (s.slotAt i).cb = true
    · obtain ⟨rfl, ready, precharge⟩ := hs.settle i k phase sequencer hold
      have stage := hs.stage ready
      rw [seqMicro_of_callback phase, if_pos sequencer, precharge] at stage
      exact relayInv_of_nextMicro hs entered ready (u := { s with hold := .none }) rfl phase rfl rfl
        (precharge ▸ stageOk_settled stage)
    · rw [endHold, complete_callback (s := { s with hold := .none }) phase]
      refine relayInv_of_main core (by constructor <;> simp) entered (by simp) fun j n callback sequencer' => ?_
      obtain ⟨rfl, -⟩ := Phase.inCallback.inj callback
      exact absurd sequencer' sequencer
  | halted => exact absurd phase running
  | dispatch | wait =>
    have entered := relayInv_entered hs running (.inl (by simp [phase]))
    have released : endHold s = { s with hold := .none } := by simp [endHold, complete, phase]
    rw [released]
    exact relayInv_of_main core (by constructor <;> simp) entered (by simp [phase]) (atRest_of_phase phase rfl)

theorem phaseStep_relayInv {s t : State} (hs : RelayInv s) (turn : s.env.turn = .task) (idle : s.hold = .none)
    (h : phaseStep s = .next t) : RelayInv t := by
  rcases phaseStep_eq_next.1 h with
    ⟨boot, outside, h⟩ | ⟨pass, h⟩ | ⟨i, k, callback, sequencer, h⟩ | ⟨i, k, callback, external, h⟩ | ⟨wait, -, h⟩
  · exact fetchStep_relayInv hs boot outside idle h
  · refine passStep_relayInv hs ?_ idle h
    rcases pass with ⟨boot | wait, inside⟩ | ⟨i, dispatch⟩
    · exact relayInv_entered hs (by simp [boot]) (.inr inside)
    · exact relayInv_entered hs (by simp [wait]) (.inr inside)
    · exact relayInv_entered hs (by simp [dispatch]) (.inl (by simp [dispatch]))
  · exact pseqStep_relayInv hs turn callback sequencer idle h
  · exact externalStep_relayInv hs turn callback external h
  · have entered := relayInv_entered hs (by simp [wait]) (.inl (by simp [wait]))
    refine executes_relayInv (relayInv_core hs) h fun effect => ?_
    cases effect with
    | waitIrq =>
      exact relayInv_of_main (relayInv_core hs) (by constructor <;> simp) entered (by simp [wait])
        (atRest_of_phase wait rfl)

theorem afterWait_relayInv {s t : State} (hs : RelayInv s) (running : s.phase ≠ .halted) (hold : s.hold ≠ .none)
    (h : afterWait s = .next t) : RelayInv t := by
  have core := relayInv_core hs
  rcases afterWait_eq_next.1 h with ⟨wait, h⟩ | ⟨-, rfl⟩
  · have entered := relayInv_entered hs running (.inl (by simp [wait]))
    refine executes_relayInv (core.kept (by constructor <;> simp)) h fun effect => ?_
    cases effect with
    | schedDispatch =>
      exact relayInv_of_main core (by constructor <;> simp) entered (by simp [wait]) (atRest_of_phase wait rfl)
  · exact endHold_relayInv hs running hold

theorem taskStep_relayInv {s t : State} (hs : RelayInv s) (turn : s.env.turn = .task) (running : s.phase ≠ .halted)
    (h : taskStep s = .next t) : RelayInv t := by
  rcases taskStep_eq_next.1 h with
    ⟨idle, h⟩ | ⟨ms, hold, -, rfl⟩ | ⟨ms, -, -, rfl⟩ | ⟨hold, -, h⟩ | ⟨-, -, rfl⟩
  · exact phaseStep_relayInv hs turn idle h
  · exact endHold_relayInv hs running (by simp [hold])
  · exact hs
  · exact afterWait_relayInv hs running (by simp [hold]) h
  · exact hs

theorem agentStep_relayInv {s t : State} (hs : RelayInv s) (running : s.phase ≠ .halted) (h : agentStep s = .next t) :
    RelayInv t := by
  have core := relayInv_core hs
  cases turn : s.env.turn with
  | task => exact taskStep_relayInv hs turn running (agentStep_task turn ▸ h)
  | interrupt => exact executes_relayInv core (agentStep_interrupt turn ▸ h) (tickIsr_relayInv hs)
  | environment => exact executes_relayInv core (agentStep_environment turn ▸ h) (timerFire_relayInv hs)

/-- Settles O58: before MAIN_LOOP no word but PERIPH_INIT writes a relay, and after it each micro-step reaches the next
stage of the table. -/
theorem relayInvKept : Obligations.RelayInvKept :=
  step_invariant (fun _ hs => relayInv_of_still hs (by constructor <;> simp) rfl rfl rfl rfl fun _ => rfl)
    fun _ _ running _ hs h => agentStep_relayInv hs running h

/-- No stage has a live relay energized without neutral (R175). -/
theorem neutralFirst_of_stageOk {timer k : Nat} {o : Outputs} {p : PowerState} (h : StageOk timer k o p) :
    NeutralFirst o := by
  cases p <;> simp only [StageOk] at h <;> simp [NeutralFirst, h]

/-- Settles O59: each stage excludes a live relay without neutral, and those of the ON path ask for a live relay. -/
theorem relayInvGivesSafety : Obligations.RelayInvGivesSafety := by
  intro s hs ready
  have stage := hs.stage ready
  refine ⟨neutralFirst_of_stageOk stage, fun path => ?_⟩
  rcases path with ⟨p, late⟩ | p | p | p <;> rw [p] at stage
  · obtain ⟨-, -, live⟩ := stage
    exact .inl (live late)
  · obtain ⟨-, live, -⟩ := stage
    exact live
  · obtain ⟨-, live, -⟩ := stage
    exact .inr live
  · obtain ⟨-, live, -⟩ := stage
    exact .inr live

/-! ### The sequencer record (O38) -/

/-- Of the effects of the operations only PSEQ_STEP's write the sequencer record. -/
theorem Effect.record_eq {s t : State} {i : Instr} (h : Effect s i t) (other : i ≠ .pseqStep) :
    t.pstate = s.pstate ∧ t.phaseTimer = s.phaseTimer ∧ t.prevPressed = s.prevPressed ∧ t.blink = s.blink := by
  cases h with
  | sample | microWrite | microBlink | microSettle | microFinish | microEnd => exact absurd rfl other
  | _ => simp [registerTask, ticked]

/-- Settles O38: a fault writes nothing of the record, and neither does the effect of another operation. -/
theorem sequencerRecordOwnedByPseqStep : Obligations.SequencerRecordOwnedByPseqStep := fun i s t other h => by
  rcases exec_executes h with ⟨c, -, rfl⟩ | effect
  · exact ⟨rfl, rfl, rfl, rfl⟩
  · exact effect.record_eq other

/-! ### Edges (O37) -/

theorem edgeOf_eq_true {raw prev : Bool} : edgeOf (pressedOf raw) prev = true ↔ raw = false ∧ prev = false := by
  simp [edgeOf, pressedOf]

/-- The edge at an index is set exactly when the sample is pressed and the level before it is not. -/
theorem edges_getElem? (raws : List Bool) (prev : Bool) (n : Nat) :
    (edges prev raws)[n]? = some true ↔
      raws[n]? = some false ∧ (if n = 0 then prev = false else raws[n - 1]? = some true) := by
  induction raws generalizing prev n with
  | nil => simp [edges]
  | cons raw raws ih =>
    cases n with
    | zero => simp [edges, edgeOf_eq_true]
    | succ n =>
      rw [edges, List.getElem?_cons_succ, ih]
      cases n <;> simp [pressedOf]

/-- Settles O37, by induction on the samples; the quoted list is evaluated. -/
theorem oneEdgePerPress : Obligations.OneEdgePerPress := ⟨edges_getElem?, by decide⟩

/-! ### The phase timer (O36) -/

/-- `tick_phase` before its N-th invocation: the timer, which does not wrap, is one higher. -/
theorem tickPhase_of_lt {n : Nat} {p : PowerState} {s : State} (width : n < 2 ^ s.params.phaseTimerWidth)
    (before : s.phaseTimer + 1 < n) : tickPhase n p s = { s with phaseTimer := s.phaseTimer + 1 } := by
  have counted := wrapTo_of_lt (before.trans width)
  rcases tickPhase_cases n p s with ⟨reached, -⟩ | ⟨-, e⟩
  · omega
  · rw [e, counted]

/-- `tick_phase` in its N-th invocation, or in the first one when N is 0. -/
theorem tickPhase_of_reached {n : Nat} {p : PowerState} {s : State} (width : n < 2 ^ s.params.phaseTimerWidth)
    (reached : n = s.phaseTimer + 1 ∨ n = 0) : tickPhase n p s = gotoState p s := by
  rcases tickPhase_cases n p s with ⟨-, e⟩ | ⟨below, -⟩
  · exact e
  · rcases reached with rfl | rfl
    · exact absurd (wrapTo_of_lt width).ge below
    · exact absurd (Nat.zero_le _) below

/-- From a timer of 0 the first invocations count. -/
theorem tickPhase_iterate {n : Nat} (p : PowerState) {s : State} (start : s.phaseTimer = 0)
    (width : n < 2 ^ s.params.phaseTimerWidth) (j : Nat) (before : j < max n 1) :
    (tickPhase n p)^[j] s = { s with phaseTimer := j } := by
  induction j with
  | zero => rw [Function.iterate_zero_apply, ← start]
  | succ j ih =>
    rw [Function.iterate_succ_apply', ih (by omega)]
    exact tickPhase_of_lt (s := { s with phaseTimer := j }) width (by dsimp only; omega)

theorem tickPhase_timer_le (n : Nat) (p : PowerState) (t : State) : (tickPhase n p t).phaseTimer ≤ max n 1 := by
  rcases tickPhase_cases n p t with ⟨-, e⟩ | ⟨below, e⟩ <;> rw [e]
  · exact Nat.zero_le _
  · exact (Nat.le_of_not_le below).trans (le_max_left n 1)

/-- Settles O36, by induction on the invocations: each counts, and the last one reaches N. -/
theorem tickPhaseTakesNInvocations : Obligations.TickPhaseTakesNInvocations := by
  intro n p s start width
  refine ⟨fun t => rfl, tickPhase_iterate p start width, ?last, fun t _ => tickPhase_timer_le n p t⟩
  case last =>
    obtain ⟨j, last⟩ : ∃ j, max n 1 = j + 1 := ⟨max n 1 - 1, by omega⟩
    rw [last, Function.iterate_succ_apply', tickPhase_iterate p start width j (by omega)]
    exact tickPhase_of_reached (s := { s with phaseTimer := j }) width (by dsimp only; omega)

/-! ### One micro-step (O29, O30) -/

/-- A micro-step whose check passes completes. -/
theorem exec_pseqStep {s : State} {i k : Nat} (h : AtMicro i k s) (ready : k = 0 → s.periphReady = true) :
    exec .pseqStep s = .next (microStep i k s) := by
  rw [pseqStep_eq h, if_neg fun ⟨first, notReady⟩ => by simp [ready first] at notReady]

/-- Settles O29: micro-step 0 is the sample, and the continuation moves on. -/
theorem sequencerSamplesFirst : Obligations.SequencerSamplesFirst := fun s i atSample ready => by
  obtain ⟨turn, callback, sequencer⟩ := atSample
  rw [exec_pseqStep ⟨turn, callback, sequencer⟩ fun _ => ready]
  exact congrArg _ (complete_callback (s := sampleButton s) callback)

/-- The continuation of an invocation after a micro-step: it holds, goes on, or has returned. -/
def MicroPlace (i k : Nat) (t : State) : Prop :=
  t.phase = .inCallback i k ∨ t.phase = .inCallback i (k + 1) ∨ t.phase = .dispatch (i + 1)

theorem complete_microFrame {s u : State} {i k : Nat} (callback : s.phase = .inCallback i k) (frame : MicroFrame s u)
    (phase : u.phase = s.phase) : MicroPlace i k (complete u) ∧ MicroFrame s (complete u) := by
  rw [complete_callback (phase.trans callback)]
  refine ⟨.inr (.inl rfl), ?_⟩
  rw [frame]
  rfl

theorem return_microFrame {s u : State} {i k : Nat} (frame : MicroFrame s u) :
    MicroPlace i k (returnFromCallback i u) ∧ MicroFrame s (returnFromCallback i u) := by
  refine ⟨.inr (.inr rfl), ?_⟩
  rw [frame]
  rfl

/-- Every micro-step of every power state keeps within its frame. -/
theorem microStep_microFrame {s : State} {i k : Nat} (callback : s.phase = .inCallback i k) :
    MicroPlace i k (microStep i k s) ∧ MicroFrame s (microStep i k s) := by
  rcases microStep_cases i k s with ⟨-, e⟩ | ⟨j, -, ⟨m, -, e⟩ | ⟨-, e⟩⟩ <;> rw [e]
  · exact complete_microFrame callback rfl rfl
  · cases m with
    | write id v => exact complete_microFrame callback rfl rfl
    | blinkLed => exact complete_microFrame callback rfl rfl
    | settle =>
      rcases startDelay_cases s.params.settleMs s with ⟨-, e⟩ | ⟨-, e⟩ <;> rw [runMicro, e]
      · exact complete_microFrame callback rfl rfl
      · exact ⟨.inl callback, rfl⟩
    | finish tr => exact return_microFrame (applyTransition_microFrame tr s)
  · exact return_microFrame rfl

/-- Settles O30: a micro-step passes its check, and whatever it is, it keeps within its frame. -/
theorem everyMicroStepCompletes : Obligations.EveryMicroStepCompletes := fun s i k atMicro ready => by
  obtain ⟨turn, callback, sequencer⟩ := atMicro
  obtain ⟨place, frame⟩ := microStep_microFrame callback
  exact ⟨microStep i k s, exec_pseqStep ⟨turn, callback, sequencer⟩ ready, place, frame⟩

/-! ### Whole invocations (O31 to O35) -/

/-- The micro-steps that write outputs and go on to the next one. -/
def isOutput : Micro → Bool
  | .write _ _ => true
  | .blinkLed => true
  | .settle => false
  | .finish _ => false

/-- What an output micro-step writes besides the continuation. -/
def outputEffect (s : State) : Micro → State
  | .write id v => writeOutput id v s
  | .blinkLed => blinkLed s
  | .settle => s
  | .finish _ => s

/-- The writes of several output micro-steps, in order. -/
def outputEffects (ms : List Micro) (s : State) : State := ms.foldl outputEffect s

/-- The task context stands at micro-step `k` of an invocation in slot `i`. -/
def atMicroStep (i k : Nat) (s : State) : State := { s with phase := .inCallback i k }

theorem atMicroStep_self {s : State} {i k : Nat} (callback : s.phase = .inCallback i k) : atMicroStep i k s = s := by
  rw [atMicroStep, ← callback]

/-- Slot `i` is the sequencer's, on the task context's turn. -/
def Invokes (i : Nat) (s : State) : Prop := s.env.turn = .task ∧ (s.slotAt i).cb = 0

theorem Invokes.atMicro {i : Nat} {s : State} (h : Invokes i s) (k : Nat) : AtMicro i k (atMicroStep i k s) :=
  ⟨h.1, rfl, h.2⟩

/-- The rows of the table that are left from micro-step `k + 1` on. -/
def rowsFrom (k : Nat) (s : State) : List Micro := (microProgram s.params (PowerState.ofBits s.pstate)).drop k

/-- A listed micro-step after the sample runs. -/
theorem exec_listed {i k : Nat} {s : State} {m : Micro} {ms : List Micro} (h : Invokes i s)
    (listed : rowsFrom k s = m :: ms) :
    exec .pseqStep (atMicroStep i (k + 1) s) = .next (runMicro i m (atMicroStep i (k + 1) s)) := by
  have row : (microProgram s.params (PowerState.ofBits s.pstate))[k]? = some m := by
    rw [← List.head?_drop, ← rowsFrom, listed, List.head?_cons]
  rw [exec_pseqStep (h.atMicro (k + 1)) (by simp)]
  exact congrArg _ (by simp only [microStep, atMicroStep, row])

theorem runMicro_of_output {i k : Nat} {s : State} {m : Micro} (output : isOutput m = true) :
    runMicro i m (atMicroStep i k s) = atMicroStep i (k + 1) (outputEffect s m) := by
  cases m with
  | write | blinkLed => rfl
  | settle | finish => simp [isOutput] at output

theorem microSteps_succ {n : Nat} {s t : State} (h : exec .pseqStep s = .next t) :
    microSteps (n + 1) s = microSteps n t := by
  rw [microSteps, h]

/-- A run of listed output micro-steps makes their writes in order, and goes on after them. -/
theorem microSteps_outputs {i n : Nat} (ms : List Micro) {rest : List Micro} {k : Nat} {s : State} (h : Invokes i s)
    (listed : rowsFrom k s = ms ++ rest) (output : ms.all isOutput = true) :
    microSteps (ms.length + n) (atMicroStep i (k + 1) s) =
        microSteps n (atMicroStep i (k + ms.length + 1) (outputEffects ms s)) ∧
      Invokes i (outputEffects ms s) ∧ rowsFrom (k + ms.length) (outputEffects ms s) = rest := by
  induction ms generalizing k s with
  | nil => exact ⟨by rw [List.length_nil, Nat.zero_add]; rfl, h, listed⟩
  | cons m ms ih =>
    obtain ⟨first, later⟩ : isOutput m = true ∧ ms.all isOutput = true := by simpa using output
    have next : rowsFrom (k + 1) s = ms ++ rest := by
      rw [rowsFrom, ← List.tail_drop, ← rowsFrom, listed]; rfl
    have frame : Invokes i (outputEffect s m) ∧ rowsFrom (k + 1) (outputEffect s m) = ms ++ rest := by
      cases m <;> exact ⟨h, next⟩
    obtain ⟨invokes, listed'⟩ := frame
    obtain ⟨runs, after⟩ := ih invokes listed' later
    rw [Nat.add_right_comm k 1 ms.length, Nat.add_assoc k ms.length 1] at runs after
    refine ⟨?_, after⟩
    rw [List.length_cons, Nat.add_right_comm, microSteps_succ (exec_listed h listed), runMicro_of_output first]
    exact runs

/-- A state `q` that is left only on an edge (R159, R163). -/
theorem applyTransition_gotoIfEdge {p q : PowerState} {s : State} (state : s.pstate = q.toBits) :
    applyTransition (.gotoIfEdge p) s =
      { s with pstate := if s.edge = true then p.toBits else q.toBits
               phaseTimer := if s.edge = true then 0 else s.phaseTimer } := by
  rw [← state]
  by_cases edge : s.edge = true
  · simp only [applyTransition, gotoState, if_pos edge]
  · simp only [applyTransition, if_neg edge]

/-- A state `q` that is left when its timer reaches N (R158). -/
theorem applyTransition_tickPhase {n : Nat} {p q : PowerState} {s : State} (state : s.pstate = q.toBits) :
    applyTransition (.tickPhase n p) s =
      { s with pstate := if n ≤ (s.phaseTimer + 1) % 2 ^ s.params.phaseTimerWidth then p.toBits else q.toBits
               phaseTimer := if n ≤ (s.phaseTimer + 1) % 2 ^ s.params.phaseTimerWidth then 0
                 else (s.phaseTimer + 1) % 2 ^ s.params.phaseTimerWidth } := by
  rw [← state, applyTransition]
  rcases tickPhase_cases n p s with ⟨reached, e⟩ | ⟨below, e⟩ <;> rw [wrapTo] at *
  · rw [e, gotoState, if_pos reached, if_pos reached]
  · rw [e, if_neg below, if_neg below]

/-- The last micro-step is the transition and the return, whatever the continuation was. -/
theorem runMicro_finish {i k : Nat} {s : State} (tr : Transition) :
    runMicro i (.finish tr) (atMicroStep i k s) = returnFromCallback i (applyTransition tr s) := by
  cases tr with
  | goto p => rfl
  | gotoIfEdge p =>
    by_cases edge : s.edge = true <;> simp [runMicro, applyTransition, atMicroStep, gotoState, returnFromCallback, edge]
  | tickPhase n p =>
    by_cases reached : n ≤ wrapTo s.params.phaseTimerWidth (s.phaseTimer + 1) <;>
      simp [runMicro, applyTransition, tickPhase, atMicroStep, gotoState, returnFromCallback, reached]

/-- Listed output micro-steps and the transition end the invocation. -/
theorem microSteps_toEnd {i k : Nat} {s : State} (ms : List Micro) {tr : Transition} (h : Invokes i s)
    (listed : rowsFrom k s = ms ++ [.finish tr]) (output : ms.all isOutput = true) :
    microSteps (ms.length + 1) (atMicroStep i (k + 1) s) =
      .next (returnFromCallback i (applyTransition tr (outputEffects ms s))) := by
  obtain ⟨runs, invokes, last⟩ := microSteps_outputs (n := 1) ms h listed output
  have returns := (exec_listed invokes last).trans (congrArg _ (runMicro_finish tr))
  exact runs.trans (microSteps_succ (n := 0) returns)

/-- A whole invocation: the sample, the listed outputs, the transition. -/
theorem microSteps_invocation {i : Nat} {s : State} (ms : List Micro) {tr : Transition} (h : AtMicro i 0 s)
    (ready : s.periphReady = true) (listed : rowsFrom 0 s = ms ++ [.finish tr]) (output : ms.all isOutput = true) :
    microSteps (ms.length + 2) s =
      .next (returnFromCallback i (applyTransition tr (outputEffects ms (sampleButton s)))) := by
  obtain ⟨turn, callback, sequencer⟩ := h
  have sampled : exec .pseqStep s = .next (atMicroStep i 1 (sampleButton s)) :=
    sequencerSamplesFirst s i ⟨turn, callback, sequencer⟩ ready
  have runs := microSteps_toEnd ms (s := sampleButton s) ⟨turn, sequencer⟩ listed output
  exact (microSteps_succ sampled).trans runs

theorem rowsFrom_of_pstate {k : Nat} {s : State} {p : PowerState} (state : s.pstate = p.toBits) :
    rowsFrom k s = (microProgram s.params p).drop k := by
  rw [rowsFrom, state, ofBits_toBits]

/-- The OFF row and the invalid one write all outputs off. -/
theorem outputEffects_allOff (s : State) : outputEffects allOffMicros s = clearOutputs allOffOrder s := rfl

theorem outputEffects_two_writes (a b : OutId) (v w : Bool) (s : State) :
    outputEffects [.write a v, .write b w] s =
      { s with out := (s.out.set a v).set b w
               outLog := s.outLog ++ [⟨a, v, s.tickCount⟩, ⟨b, w, s.tickCount⟩] } := by
  simp [outputEffects, outputEffect, writeOutput]

theorem outputEffects_write_blink (a : OutId) (v : Bool) (s : State) :
    outputEffects [.write a v, .blinkLed] s =
      { s with blink := !s.blink
               out := (s.out.set a v).set .led (!s.blink)
               outLog := s.outLog ++ [⟨a, v, s.tickCount⟩, ⟨.led, !s.blink, s.tickCount⟩] } := by
  simp [outputEffects, outputEffect, writeOutput, blinkLed]

/-- Settles O31: both rows are the all-off writes, before a transition on an edge and before one to OFF. -/
theorem offAndInvalidInvocations : Obligations.OffAndInvalidInvocations := by
  refine fun s i start ready => ⟨fun state => ?off, fun above => ?invalid⟩
  case off =>
    refine (microSteps_invocation allOffMicros start ready (rowsFrom_of_pstate (p := .off) state) rfl).trans
      (congrArg _ ?_)
    rw [outputEffects_allOff, clearOutputs_allOff, applyTransition_gotoIfEdge (q := .off)]
    · rfl
    · exact state
  case invalid =>
    have invalid : PowerState.ofBits s.pstate = .invalid := by
      by_contra valid
      have := (ofBits_ne_invalid_iff s.pstate).1 valid
      omega
    have listed : rowsFrom 0 s = allOffMicros ++ [.finish (.goto .off)] := by rw [rowsFrom, invalid]; rfl
    refine (microSteps_invocation allOffMicros start ready listed rfl).trans (congrArg _ ?_)
    rw [outputEffects_allOff, clearOutputs_allOff]
    rfl

/-- Settles O32: two writes, then the next state at once, or on an edge. -/
theorem neutralAndOnInvocations : Obligations.NeutralAndOnInvocations := by
  refine fun s i start ready => ⟨fun state => ?neutralEnergized, fun state => ?on⟩
  case neutralEnergized =>
    refine (microSteps_invocation [.write .neutral true, .write .led true] start ready
      (rowsFrom_of_pstate (p := .neutralEnergized) state) rfl).trans (congrArg _ ?_)
    rw [outputEffects_two_writes]
    rfl
  case on =>
    refine (microSteps_invocation [.write .led true, .write .speaker true] start ready
      (rowsFrom_of_pstate (p := .on) state) rfl).trans (congrArg _ ?_)
    rw [outputEffects_two_writes, applyTransition_gotoIfEdge (q := .on)]
    · rfl
    · exact state

/-- Settles O33: a blink, after the relay's write in LIVE_VIA_RESISTOR, then the timed transition. -/
theorem blinkingInvocations : Obligations.BlinkingInvocations := by
  refine fun s i start ready => ⟨fun state => ?liveViaResistor, fun state => ?shutdownBlink⟩
  case liveViaResistor =>
    refine (microSteps_invocation [.write .liveRes true, .blinkLed] start ready
      (rowsFrom_of_pstate (p := .liveViaResistor) state) rfl).trans (congrArg _ ?_)
    rw [outputEffects_write_blink, applyTransition_tickPhase (q := .liveViaResistor)]
    · rfl
    · exact state
  case shutdownBlink =>
    refine (microSteps_invocation [.blinkLed] start ready
      (rowsFrom_of_pstate (p := .shutdownBlink) state) rfl).trans (congrArg _ ?_)
    rw [applyTransition_tickPhase (q := .shutdownBlink)]
    · rfl
    · exact state

/-- Settles O35: two writes and the next state, with no test of the edge. -/
theorem shutdownStepInvocations : Obligations.ShutdownStepInvocations := by
  refine fun s i start ready => ⟨fun state => ?step1, fun state => ?step2, fun state => ?step3⟩
  case step1 =>
    refine (microSteps_invocation [.write .led false, .write .speaker false] start ready
      (rowsFrom_of_pstate (p := .shutdownStep1) state) rfl).trans (congrArg _ ?_)
    rw [outputEffects_two_writes]
    rfl
  case step2 =>
    refine (microSteps_invocation [.write .led true, .write .liveDirect false] start ready
      (rowsFrom_of_pstate (p := .shutdownStep2) state) rfl).trans (congrArg _ ?_)
    rw [outputEffects_two_writes]
    rfl
  case step3 =>
    refine (microSteps_invocation [.write .led false, .write .neutral false] start ready
      (rowsFrom_of_pstate (p := .shutdownStep3) state) rfl).trans (congrArg _ ?_)
    rw [outputEffects_two_writes]
    rfl

/-- The first half of a SPEAKER_PRECHARGE invocation: the sample, the direct relay, the start of the settle delay. -/
theorem microSteps_toSettle {i : Nat} {s : State} (state : s.pstate = PowerState.speakerPrecharge.toBits)
    (start : AtMicro i 0 s) (ready : s.periphReady = true) :
    microSteps 3 s =
      .next (startDelay s.params.settleMs (atMicroStep i 2 (writeOutput .liveDirect true (sampleButton s)))) := by
  obtain ⟨turn, callback, sequencer⟩ := start
  have sampled : exec .pseqStep s = .next (atMicroStep i 1 (sampleButton s)) :=
    sequencerSamplesFirst s i ⟨turn, callback, sequencer⟩ ready
  obtain ⟨runs, invokes, last⟩ := microSteps_outputs (i := i) (n := 1) (s := sampleButton s) [.write .liveDirect true]
    ⟨turn, sequencer⟩ (rowsFrom_of_pstate (k := 0) (p := .speakerPrecharge) state) rfl
  rw [microSteps_succ sampled]
  exact runs.trans (by rw [microSteps_succ (exec_listed invokes last)]; rfl)

/-- Settles O34: up to the settle delay, which holds unless it is 0, and from its end on. -/
theorem prechargeInvocation : Obligations.PrechargeInvocation := by
  refine fun s i state => ⟨fun start ready settle => ?holds, fun start ready settle => ?completes, fun settled => ?ends⟩
  case holds =>
    rw [microSteps_toSettle state start ready]
    rcases startDelay_cases s.params.settleMs
      (atMicroStep i 2 (writeOutput .liveDirect true (sampleButton s))) with ⟨none, -⟩ | ⟨-, e⟩
    · exact absurd none settle
    · rw [e]
      rfl
  case completes =>
    rw [microSteps_toSettle state start ready]
    rcases startDelay_cases s.params.settleMs
      (atMicroStep i 2 (writeOutput .liveDirect true (sampleButton s))) with ⟨-, e⟩ | ⟨some, -⟩
    · rw [e]
      rfl
    · exact absurd settle some
  case ends =>
    obtain ⟨turn, callback, sequencer⟩ := settled
    have runs := microSteps_toEnd (i := i) (k := 2) [.write .liveRes false, .blinkLed] ⟨turn, sequencer⟩
      (rowsFrom_of_pstate (p := .speakerPrecharge) state) rfl
    rw [atMicroStep_self callback, outputEffects_write_blink,
      applyTransition_tickPhase (q := .speakerPrecharge)] at runs
    · exact runs
    · exact state

/-! ### The faults of the I/O operations (O41) -/

/-- No relay has an id above 3 (R194). -/
theorem relayOfId_eq_none : ∀ {id : Byte}, 3 < id.toNat → relayOfId id = none := by decide

/-- No level is above 1 (R83). -/
theorem levelOf_eq_none : ∀ {lvl : Byte}, 1 < lvl.toNat → levelOf lvl = none := by decide

/-- The boot program and callback 0 may issue an operation whose class names both. -/
theorem mayIssue_of_place {op : Instr} {s : State} (place : AtBoot s ∨ ∃ i k, AtMicro i k s)
    (boot : mayIssue op .boot = true) (sequencer : mayIssue op .sequencer = true) : mayIssue op s.context = true := by
  rcases place with atBoot | ⟨i, k, micro⟩
  · rwa [context_boot atBoot]
  · rwa [context_micro micro]

/-- Before PERIPH_INIT an I/O operation that may be issued raises NOT_READY, whatever its body. -/
theorem checked_of_notReady {op : Instr} {s : State} {body : Result} (noFault : s.fault = 0)
    (notReady : s.periphReady = false) (issued : mayIssue op s.context = true) :
    checked [wrongClass op s, (!s.periphReady, .notReady)] s body = .next { s with fault := 0x06, phase := .halted } :=
  checked_of_fault .notReady noFault (by simp [wrongClass, issued, notReady])

/-- After it the operation's body runs. -/
theorem checked_of_ready {op : Instr} {s : State} {body : Result} (ready : s.periphReady = true)
    (issued : mayIssue op s.context = true) :
    checked [wrongClass op s, (!s.periphReady, .notReady)] s body = body :=
  checked_of_none (by simp [wrongClass, issued, ready])

/-- Settles O41: NOT_READY is the first failing check whatever the operands, and one out of range has no meaning. -/
theorem ioFaults : Obligations.IoFaults := by
  refine fun s id lvl noFault => ⟨fun place => ⟨fun notReady => ?notReady, fun ready range => ?relay,
    fun ready range => ?led⟩, fun i start notReady => ?micro⟩
  case notReady =>
    have refused {op : Instr} {body : Result} (boot : mayIssue op .boot = true)
        (sequencer : mayIssue op .sequencer = true) :=
      checked_of_notReady (body := body) noFault notReady (mayIssue_of_place place boot sequencer)
    exact ⟨refused rfl rfl, refused rfl rfl, refused rfl rfl⟩
  case relay =>
    have badOperand : raised .badOperand s = .next { s with fault := 0x09, phase := .halted } :=
      congrArg _ (raiseFault_of_running .badOperand noFault)
    refine (checked_of_ready ready (mayIssue_of_place place rfl rfl)).trans ?_
    rcases range with range | range
    · rw [relayOfId_eq_none range]
      exact badOperand
    · rw [levelOf_eq_none range]
      cases relayOfId id <;> exact badOperand
  case led =>
    refine (checked_of_ready ready (mayIssue_of_place place rfl rfl)).trans ?_
    rw [levelOf_eq_none range]
    exact congrArg _ (raiseFault_of_running .badOperand noFault)
  case micro =>
    rw [pseqStep_eq start, if_pos ⟨rfl, notReady⟩, raiseFault_of_running _ noFault]
    rfl

end Sys2Proof.Proofs

/-! PROOFS of the statements about the output and delay operations (spec/43_io_drivers.md): what each does once its checks
pass, then its completion in the boot program and in a callback. -/

namespace Sys2Proof.Proofs

open Sys2Proof Sys2Proof.Machine Sys2Proof.Safety Sys2Proof.Laws

/-! ### The output writes (O39, O40) -/

/-- The id of every output but the LED is a relay's (R40, R194). -/
theorem relayOfId_number {r : OutId} (relay : r ≠ .led) : relayOfId (BitVec.ofNat 8 r.number) = some r := by
  cases r with
  | led => exact absurd rfl relay
  | neutral | liveRes | liveDirect | speaker => rfl

/-- A level operand of 0 or 1 stands for its level (R83). -/
theorem levelOf_bit (v : Bool) : levelOf (if v = true then 1 else 0) = some v := by
  cases v <;> rfl

/-- SET_RELAY that passes its checks writes the relay's latch and completes (R194). -/
theorem exec_setRelay {s : State} {r : OutId} {v : Bool} (ready : s.periphReady = true) (relay : r ≠ .led)
    (place : AtBoot s ∨ ∃ i k, AtMicro i k s) :
    exec (.setRelay (BitVec.ofNat 8 r.number) (if v = true then 1 else 0)) s =
      .next (complete (writeOutput r v s)) := by
  refine (checked_of_ready ready (mayIssue_of_place place rfl rfl)).trans ?_
  rw [relayOfId_number relay, levelOf_bit]

/-- SET_LED that passes its checks writes the LED's latch and completes (R195). -/
theorem exec_setLed {s : State} {v : Bool} (ready : s.periphReady = true) (place : AtBoot s ∨ ∃ i k, AtMicro i k s) :
    exec (.setLed (if v = true then 1 else 0)) s = .next (complete (writeOutput .led v s)) := by
  refine (checked_of_ready ready (mayIssue_of_place place rfl rfl)).trans ?_
  rw [levelOf_bit]

/-- Settles O39: the relay's write (R197), completed where the operation stands. -/
theorem setRelayWritesAndLogs : Obligations.SetRelayWritesAndLogs := by
  refine fun s r v ready relay => ⟨fun boot => ?boot, fun i k micro => ?micro⟩
  case boot =>
    exact (exec_setRelay ready relay (.inl boot)).trans (congrArg _ (complete_boot (s := writeOutput r v s) boot.2))
  case micro =>
    have written := exec_setRelay (v := v) ready relay (.inr ⟨i, k, micro⟩)
    obtain ⟨-, callback, -⟩ := micro
    exact written.trans (congrArg _ (complete_callback (s := writeOutput r v s) callback))

/-- Settles O40: the LED's write (R197), completed where the operation stands; neither step writes the blink flag. -/
theorem setLedWritesAndLogs : Obligations.SetLedWritesAndLogs := by
  refine fun s v ready => ⟨fun boot => ?boot, fun i k micro => ?micro⟩
  case boot =>
    exact (exec_setLed ready (.inl boot)).trans (congrArg _ (complete_boot (s := writeOutput .led v s) boot.2))
  case micro =>
    have written := exec_setLed (v := v) ready (.inr ⟨i, k, micro⟩)
    obtain ⟨-, callback, -⟩ := micro
    exact written.trans (congrArg _ (complete_callback (s := writeOutput .led v s) callback))

/-! ### The start of a delay (O42) -/

/-- `startDelay_cases` at an operand of DELAY_MS: the test for 0 is one on the 32-bit word (R196). -/
theorem startDelay_toNat (ms : Tick) (s : State) :
    startDelay ms.toNat s =
      if ms = 0 then complete { s with delayStart := s.tickCount }
      else { s with delayStart := s.tickCount, hold := .delay ms.toNat } := by
  have zero : ms.toNat = 0 ↔ ms = 0 := BitVec.toNat_eq (y := 0#32).symm
  rcases startDelay_cases ms.toNat s with ⟨noWait, starts⟩ | ⟨waits, starts⟩
  · rw [starts, if_pos (zero.1 noWait)]
  · rw [starts, if_neg (mt zero.2 waits)]

/-- A callback body, the sequencer's or an EXTERNAL one, may issue DELAY_MS (R85). -/
theorem mayIssue_delayMs_callback {s : State} {i k : Nat} (ms : Tick) (place : AtMicro i k s ∨ AtExternal i k s) :
    mayIssue (.delayMs ms) s.context = true := by
  rcases place with micro | external
  · rw [context_micro micro]; rfl
  · rw [context_external external]; rfl

/-- Settles O42: DELAY_MS passes its class check in each of the three contexts, and a duration of 0 completes there. -/
theorem delayMsStarts : Obligations.DelayMsStarts := by
  refine fun s ms => ⟨fun boot => ?boot, fun i k place => ?callback⟩
  case boot =>
    have issued : mayIssue (.delayMs ms) s.context = true := by rw [context_boot boot]; rfl
    rw [exec_delayMs issued, startDelay_toNat, complete_boot (s := { s with delayStart := s.tickCount }) boot.2]
  case callback =>
    have callback : s.phase = .inCallback i k := by
      rcases place with ⟨-, callback, -⟩ | ⟨-, callback, -⟩ <;> exact callback
    rw [exec_delayMs (mayIssue_delayMs_callback ms place), startDelay_toNat,
      complete_callback (s := { s with delayStart := s.tickCount }) callback]

end Sys2Proof.Proofs

/-! PROOFS of the statements about control (spec/44_control.md). First the shell of a step: the program it refuses and
the block that has stopped. Then the control operations, past their class check and refused by it, with the end of
WAIT_IRQ's hold. -/

namespace Sys2Proof.Proofs

open Sys2Proof Sys2Proof.Machine Sys2Proof.Safety Sys2Proof.Laws

/-! ### The shell of a step (O8, O9) -/

/-- The boot programs that R217 allows, their last word named by its operation. -/
theorem programWf_iff (p : List OpWord) :
    programWf p = true ↔
      p ≠ [] ∧ p.length ≤ 65535 ∧
        (p.getLast? = some (encode .mainLoop) ∨ p.getLast? = some (encode .fatalHalt)) := by
  have mainWord : encode .mainLoop = mainLoopWord := by decide
  have haltWord : encode .fatalHalt = fatalHaltWord := by decide
  simp [programWf, endsProperly, mainWord, haltWord, Nat.one_le_iff_ne_zero, and_assoc]

theorem step_of_illFormed {s : State} (illFormed : ¬ programWf s.program = true) :
    step s = .refused .illFormedProgram := by
  simp [step, illFormed]

theorem step_of_halted {s : State} (wf : programWf s.program = true) (halted : s.isHalted = true) :
    step s = .fault .halted := by
  simp [step, wf, halted]

/-- Settles O8: each of the three faults denies one of R217's conditions. -/
theorem illFormedProgramRefused : Obligations.IllFormedProgramRefused := by
  refine fun s illFormed => step_of_illFormed fun wf => ?_
  obtain ⟨nonempty, short, ends⟩ := (programWf_iff _).1 wf
  rcases illFormed with empty | long | ⟨notMain, notHalt⟩
  · exact nonempty empty
  · exact short.not_gt long
  · exact ends.elim notMain notHalt

/-- Settles O9: either mark of a fault stops the block. -/
theorem haltedBlockTakesNoStep : Obligations.HaltedBlockTakesNoStep := fun s wf stopped =>
  step_of_halted wf (by simpa [State.isHalted] using stopped)

/-! ### The class check of a control operation -/

/-- An operation whose only check is the one of its class runs its body where it may be issued. -/
theorem checked_of_issued {i : Instr} {s : State} {body : Result} (issued : mayIssue i s.context = true) :
    checked [wrongClass i s] s body = body :=
  checked_of_none (by simp [wrongClass, issued])

/-- What only the boot program may issue passes its class check there. -/
theorem issued_of_boot {i : Instr} {s : State} (boot : AtBoot s) (bootClass : mayIssue i .boot = true) :
    mayIssue i s.context = true := by
  rwa [context_boot boot]

/-- An operation of the boot program's class raises WRONG_CONTEXT outside phase BOOT (R243). -/
theorem exec_of_notBoot {i : Instr} {s : State} (bootOnly : ∀ c, mayIssue i c = (c == .boot))
    (notBoot : s.phase ≠ .boot) (noFault : s.fault = 0) :
    exec i s = .next { s with fault := 0x07, phase := .halted } := by
  have outside : mayIssue i s.context = false := (bootOnly _).trans (context_ne_boot notBoot)
  exact (exec_of_outside outside).trans (congrArg _ (raiseFault_of_running .wrongContext noFault))

/-! ### Startup (O44, O45) -/

/-- Settles O44: before IRQ_ENABLE a boot PERIPH_INIT passes its checks, and its writes are the all-off ones. -/
theorem periphInitClearsOutputs : Obligations.PeriphInitClearsOutputs := by
  intro s boot masked
  have passes : firstFault [wrongClass .periphInit s, (s.irqEnabled, .lateConfig)] = none := by
    simp [wrongClass, issued_of_boot boot (i := .periphInit) rfl, masked]
  have runs : exec .periphInit s =
      .next (nextWord { clearOutputs allOffOrder s with periphReady := true, timerRunning := true }) :=
    checked_of_none passes
  rw [runs, clearOutputs_allOff]
  rfl

/-- Settles O45: both are the boot program's alone (R85), and there their write is all they do. -/
theorem irqEnableAndDisable : Obligations.IrqEnableAndDisable := fun _ =>
  ⟨fun boot => ⟨checked_of_issued (issued_of_boot boot rfl), checked_of_issued (issued_of_boot boot rfl)⟩,
    fun _ notBoot noFault =>
      ⟨exec_of_notBoot (fun _ => rfl) notBoot noFault, exec_of_notBoot (fun _ => rfl) notBoot noFault⟩⟩

/-! ### WAIT_IRQ (O46, O47) -/

/-- Settles O46: the boot program and the main loop may both issue it, and its body starts the hold. -/
theorem waitIrqHolds : Obligations.WaitIrqHolds := by
  intro s turn place
  have issued : mayIssue .waitIrq s.context = true := by
    rcases place with boot | wait
    · exact issued_of_boot ⟨turn, boot⟩ rfl
    · simp [mayIssue, State.context, turn, wait]
  exact checked_of_issued issued

/-- On the task context's turn a WAIT_IRQ hold is lifted or goes on, by `isr_seen`. -/
theorem step_of_waitIrq {s : State} (running : Running s) (turn : s.env.turn = .task) (hold : s.hold = .waitIrq) :
    step s = mapNext drawChoices (if s.isrSeen = true then afterWait s else .next s) := by
  rw [step_of_running running, agentStep_task turn, taskStep, hold]

/-- Settles O47: a lifted wait ends as the phase it was issued in says. -/
theorem waitHoldLifts : Obligations.WaitHoldLifts := by
  refine fun s running turn hold => ⟨fun unseen => ?holds, fun seen boot => ?boot, fun seen wait => ?mainLoop⟩
  case holds => rw [step_of_waitIrq running turn hold, if_neg (by simp [unseen]), mapNext_next]
  case boot =>
    have ends : afterWait s = .next (endHold s) := afterWait_eq_next.2 (.inr ⟨by simp [boot], rfl⟩)
    have completes : endHold s = { s with hold := .none, pc := s.pc + 1 } :=
      complete_boot (s := { s with hold := .none }) boot
    rw [step_of_waitIrq running turn hold, if_pos seen, ends, completes, mapNext_next]
  case mainLoop =>
    have nextPass : afterWait s = exec .schedDispatch { s with hold := .none } := by rw [afterWait, wait]
    rw [step_of_waitIrq running turn hold, if_pos seen, nextPass]

/-! ### MAIN_LOOP and FATAL_HALT (O49, O50) -/

/-- Settles O49: past the class check MAIN_LOOP is the start of a pass, which outside a pass fails only before
SCHED_INIT. -/
theorem mainLoopStartsFirstPass : Obligations.MainLoopStartsFirstPass := by
  intro s boot
  have starts : exec .mainLoop s = startPass { s with mainEntered := true } :=
    checked_of_issued (issued_of_boot boot rfl)
  have notCallback : s.phase.isCallback = false := by rw [boot.2]; rfl
  refine ⟨fun ready outside => ?ready, fun notReady noFault => ?notReady⟩
  case ready => exact starts.trans (startPass_eq_next.2 (.inl ⟨ready, notCallback, outside, rfl⟩))
  case notReady =>
    have raises : raiseFault .notReady { s with mainEntered := true } =
        { s with mainEntered := true, fault := 0x06, phase := .halted } := raiseFault_of_running .notReady noFault
    exact starts.trans (startPass_eq_next.2 (.inr (.inl ⟨notReady, raises.symm⟩)))

/-- Settles O50: its class is the boot program's alone, and there its body is the fault entry. -/
theorem fatalHaltRaisesHalt : Obligations.FatalHaltRaisesHalt := by
  intro s turn noFault
  by_cases boot : s.phase = .boot
  · have halts : exec .fatalHalt s = raised .halt s := checked_of_issued (issued_of_boot ⟨turn, boot⟩ rfl)
    rw [halts, raised, raiseFault_of_running .halt noFault, if_pos boot]
    rfl
  · rw [exec_of_notBoot (fun _ => rfl) boot noFault, if_neg boot]

end Sys2Proof.Proofs

/-! PROOFS of the statement about hazards (spec/70_reset_and_hazards.md): a hold with interrupts off. The task context has
no step while it holds, the masked ISR has none either, and the environment can at most make its timer fire pending. -/

namespace Sys2Proof.Proofs

open Sys2Proof Sys2Proof.Machine Sys2Proof.Safety Sys2Proof.Laws

/-! ### A hold with interrupts off (O48) -/

/-- A hold whose condition is false gives the task context no step (R13). -/
theorem taskStep_of_holding {s : State} (holding : Holding s) : taskStep s = .next s := by
  rcases holding with ⟨ms, hold, early⟩ | ⟨hold, unseen⟩
  · exact taskStep_eq_next.2 (.inr (.inr (.inl ⟨ms, hold, early, rfl⟩)))
  · exact taskStep_eq_next.2 (.inr (.inr (.inr (.inr ⟨hold, unseen, rfl⟩))))

/-- With interrupts off the ISR is not enabled, whatever is pending (R102, R211). -/
theorem tickIsr_of_masked {s : State} (turn : s.env.turn = .interrupt) (masked : s.irqEnabled = false) :
    exec .tickIsr s = .next s :=
  (tickIsrNotReadyOrNotEnabled s turn).2 (.inr (.inl masked))

/-- TIMER_FIRE, enabled or not, writes at most the pending flag (R101). -/
theorem timerFire_pending {s : State} (turn : s.env.turn = .environment) :
    ∃ pending, exec .timerFire s = .next { s with timerPending := pending } := by
  rw [timerFire_eq turn]
  split
  · exact ⟨true, rfl⟩
  · exact ⟨s.timerPending, rfl⟩

/-- Nobody ends a hold while interrupts are off: the agent whose turn it is writes at most the pending flag. -/
theorem agentStep_of_maskedHold {s : State} (masked : s.irqEnabled = false) (holding : Holding s) :
    ∃ pending, agentStep s = .next { s with timerPending := pending } := by
  cases turn : s.env.turn with
  | task => exact ⟨s.timerPending, (agentStep_task turn).trans (taskStep_of_holding holding)⟩
  | interrupt => exact ⟨s.timerPending, (agentStep_interrupt turn).trans (tickIsr_of_masked turn masked)⟩
  | environment => rw [agentStep_environment turn]; exact timerFire_pending turn

/-- Settles O48: whoever has the turn, the step is at most a pending fire and the draw of the next choices. -/
theorem hangWithInterruptsOff : Obligations.HangWithInterruptsOff := by
  intro s t masked _ hangs stepped
  have holding : Holding s := hangs.symm
  obtain ⟨pending, idles⟩ := agentStep_of_maskedHold masked holding
  obtain ⟨-, -, -, u, moved, rfl⟩ := step_eq_next.1 stepped
  obtain rfl : u = { s with timerPending := pending } := next_eq_next.1 (idles.symm.trans moved)
  rfl

end Sys2Proof.Proofs
